-- ==== Sys2Proof/Word.lean ====
section
/-! DEFINITION. The word types of TSFE: a stream byte, a command word, a 64-bit register slot or counter, a PID. -/

namespace Sys2Proof

/-- A byte of the stream, of BUF, of LAST[pid]. -/
abbrev Byte := BitVec 8

/-- A command word (R117), a packet header word (R111), CRC_REG (R33). -/
abbrev Word32 := BitVec 32

/-- A register slot (R36) or a counter (R23: every counter has 64 bits and wraps). -/
abbrev Word64 := BitVec 64

/-- The 13-bit packet identifier, the index of PIDTAB (R28, R111). -/
abbrev Pid := BitVec 13

/-- A flag as a one-bit word. -/
abbrev flag (b : Bool) : BitVec 1 := BitVec.ofBool b

end Sys2Proof
end

