-- ==== Sys2Proof/Config.lean ====
section
/-! DEFINITION. What is fixed when the block is built: the static parameters of R4 with their defaults, and the fixed
sizes. The model has no free value: every value the spec leaves unspecified (U1, U2 of 93_implementation_defined.md)
is unobservable. -/

namespace Sys2Proof

/-- The static parameters of R4, "an argument of the model". The state carries them beside the state proper, and no step
changes them, so a statement about every state is one about every parameter value (log 9). -/
structure Params where
  /-- CANCEL_N: the abort request is examined every CANCEL_N packets (R166). -/
  cancelN : Nat
  /-- BC_BUF_BYTES: capacity of the bit-cursor buffer (R34). -/
  bcBufBytes : Nat
  /-- CRC_POLY: generator polynomial, the x^32 term implied (R230). -/
  crcPoly : Word32
  deriving DecidableEq, Repr

/-- The defaults of R4. -/
def Params.default : Params := { cancelN := 1, bcBufBytes := 4096, crcPoly := 0x04C11DB7 }

/-- The ranges of R4: CANCEL_N at least 1, BC_BUF_BYTES from 1 to 2^28. -/
abbrev Params.Legal (c : Params) : Prop :=
  1 ≤ c.cancelN ∧ 1 ≤ c.bcBufBytes ∧ c.bcBufBytes ≤ 2 ^ 28

/-- SYNC_BYTE of R4. -/
def syncByte : Byte := 0x47

/-- PKT_LEN of R4: the bytes of a transport packet. -/
def pktLen : Nat := 188

end Sys2Proof
end

