-- ==== Sys2Proof/Syntax.lean ====
section
/-! DEFINITION. The instructions of TSFE: thirteen command words (R118) and six packet forms (R113), one constructor for
each row of the opcode table. -/

namespace Sys2Proof

/-- The header fields of a routed packet that do not select its form (R111). -/
structure Hdr where
  pusi : Bool
  prio : Bool
  pid  : Pid
  tsc  : BitVec 2
  cc   : BitVec 4
  deriving DecidableEq, Repr

/-- One constructor per row of the opcode table. -/
inductive Instr where
  /-- SYS.RESET (R161). -/
  | sysReset
  /-- FRM.START (R152). -/
  | frmStart
  /-- FRM.ABORT (R165). -/
  | frmAbort
  /-- CRC.INIT (R232). -/
  | crcInit
  /-- CRC.BYTE b (R233). -/
  | crcByte (b : Byte)
  /-- CRC.CHECK (R236). -/
  | crcCheck
  /-- BC.CLEAR (R252). -/
  | bcClear
  /-- BC.PUSH b (R253). -/
  | bcPush (b : Byte)
  /-- BC.RDU n (R255): it decodes for every 16-bit ARG (R119). -/
  | bcRdu (n : BitVec 16)
  /-- BC.RDUE (R258). -/
  | bcRdue
  /-- BC.RDSE (R260). -/
  | bcRdse
  /-- BC.ALIGN (R261). -/
  | bcAlign
  /-- BC.REM (R262). -/
  | bcRem
  /-- TSP.TEI (R185): sync good, tei = 1; afc does not select the form. -/
  | tspTei (h : Hdr) (afc : BitVec 2)
  /-- TSP.RSV (R210): routed, afc = 00. -/
  | tspRsv (h : Hdr)
  /-- TSP.PAY (R211): routed, afc = 01. -/
  | tspPay (h : Hdr)
  /-- TSP.AF (R212): routed, afc = 10. -/
  | tspAf (h : Hdr)
  /-- TSP.AFPAY (R213): routed, afc = 11. -/
  | tspAfpay (h : Hdr)
  /-- TSP.NOSYNC (R183): any header word whose sync byte is not 0x47; no field of it is extracted. -/
  | tspNosync (w : Word32)
  deriving DecidableEq, Repr

/-- The two formats of the opcode table: a command word comes from a write to CMD, a header word from the stream, and the
two are never confused (30_encoding.md). -/
inductive Format where
  | cw32
  | tspH
  deriving DecidableEq, Repr

/-- The format of an instruction's row. -/
def Instr.format : Instr → Format
  | .sysReset | .frmStart | .frmAbort => .cw32
  | .crcInit | .crcByte _ | .crcCheck => .cw32
  | .bcClear | .bcPush _ | .bcRdu _ | .bcRdue | .bcRdse | .bcAlign | .bcRem => .cw32
  | .tspTei _ _ | .tspRsv _ | .tspPay _ | .tspAf _ | .tspAfpay _ | .tspNosync _ => .tspH

end Sys2Proof
end

