-- ==== Sys2Proof/WellFormed.lean ====
section
/-! DEFINITION. Which instructions exist. The types of the operands already hold every other limit of the encodings; the
one check left is that of the default row TSP.NOSYNC (R113 row 6). -/

namespace Sys2Proof

/-- The sync byte of a header word, H[31:24] (R111). -/
def headerSync (w : Word32) : Byte := w.extractLsb' 24 8

/-- R113: the default row selects "everything else, that is sync_byte != 0x47". -/
def Instr.wf : Instr → Bool
  | .tspNosync w => headerSync w != syncByte
  | .sysReset | .frmStart | .frmAbort => true
  | .crcInit | .crcByte _ | .crcCheck => true
  | .bcClear | .bcPush _ | .bcRdu _ | .bcRdue | .bcRdse | .bcAlign | .bcRem => true
  | .tspTei _ _ | .tspRsv _ | .tspPay _ | .tspAf _ | .tspAfpay _ => true

end Sys2Proof
end

