-- ==== Sys2Proof/Decode.lean ====
section
/-! DEFINITION. Decoding of command words (R117 to R120) and of packet header words (R111 to R113), the encoder written
from the same tables, and the host's question about one table word. -/

namespace Sys2Proof

/-- Why a command word is illegal (R120). No effect tells the three apart: each is ILLEGAL_CMD. -/
inductive Reject where
  /-- An OPC that is none of the thirteen. -/
  | unassignedOpcode
  /-- RSV is not 0. -/
  | nonzeroReserved
  /-- ARG is not 0 on a command that takes none, or ARG[15:8] is not 0 on a command that takes a byte. -/
  | nonzeroArgument
  deriving DecidableEq, Repr

/-! The opcodes of R118. -/

def opcSysReset : BitVec 8 := 0x01
def opcFrmStart : BitVec 8 := 0x10
def opcFrmAbort : BitVec 8 := 0x11
def opcCrcInit  : BitVec 8 := 0x20
def opcCrcByte  : BitVec 8 := 0x21
def opcCrcCheck : BitVec 8 := 0x22
def opcBcClear  : BitVec 8 := 0x30
def opcBcPush   : BitVec 8 := 0x31
def opcBcRdu    : BitVec 8 := 0x32
def opcBcRdue   : BitVec 8 := 0x33
def opcBcRdse   : BitVec 8 := 0x34
def opcBcAlign  : BitVec 8 := 0x35
def opcBcRem    : BitVec 8 := 0x36

/-! The fields of a command word (R117). -/

def cwOpc (w : Word32) : BitVec 8 := w.extractLsb' 24 8
def cwRsv (w : Word32) : BitVec 8 := w.extractLsb' 16 8
def cwArg (w : Word32) : BitVec 16 := w.extractLsb' 0 16

/-- A command without argument: RSV and ARG must be 0 (R117, R120). -/
def decodeNoArg (w : Word32) (i : Instr) : Except Reject Instr :=
  if cwRsv w ≠ 0 then .error .nonzeroReserved
  else if cwArg w ≠ 0 then .error .nonzeroArgument
  else .ok i

/-- The byte argument ARG[7:0]; RSV and ARG[15:8] must be 0 (R117, R120). -/
def decodeByteArg (w : Word32) (f : Byte → Instr) : Except Reject Instr :=
  if cwRsv w ≠ 0 then .error .nonzeroReserved
  else if (cwArg w).extractLsb' 8 8 ≠ 0 then .error .nonzeroArgument
  else .ok (f ((cwArg w).extractLsb' 0 8))

/-- The width argument ARG[15:0] of BC.RDU: every value decodes (R119). -/
def decodeWideArg (w : Word32) (f : BitVec 16 → Instr) : Except Reject Instr :=
  if cwRsv w ≠ 0 then .error .nonzeroReserved else .ok (f (cwArg w))

/-- R118 to R120: the strict, total decoder of command words. -/
def decodeCmd (w : Word32) : Except Reject Instr :=
  if cwOpc w = opcSysReset then decodeNoArg w .sysReset
  else if cwOpc w = opcFrmStart then decodeNoArg w .frmStart
  else if cwOpc w = opcFrmAbort then decodeNoArg w .frmAbort
  else if cwOpc w = opcCrcInit then decodeNoArg w .crcInit
  else if cwOpc w = opcCrcByte then decodeByteArg w .crcByte
  else if cwOpc w = opcCrcCheck then decodeNoArg w .crcCheck
  else if cwOpc w = opcBcClear then decodeNoArg w .bcClear
  else if cwOpc w = opcBcPush then decodeByteArg w .bcPush
  else if cwOpc w = opcBcRdu then decodeWideArg w .bcRdu
  else if cwOpc w = opcBcRdue then decodeNoArg w .bcRdue
  else if cwOpc w = opcBcRdse then decodeNoArg w .bcRdse
  else if cwOpc w = opcBcAlign then decodeNoArg w .bcAlign
  else if cwOpc w = opcBcRem then decodeNoArg w .bcRem
  else .error .unassignedOpcode

/-! The fields of a header word (R111). -/

def headerTei (w : Word32) : Bool := w.getLsbD 23
def headerAfc (w : Word32) : BitVec 2 := w.extractLsb' 4 2

/-- The fields of R111 that do not select the form. -/
def headerFields (w : Word32) : Hdr :=
  { pusi := w.getLsbD 22, prio := w.getLsbD 21, pid := w.extractLsb' 8 13, tsc := w.extractLsb' 6 2,
    cc := w.extractLsb' 0 4 }

/-- R113: the first matching row, in order; the last row matches everything. -/
def decodeHeader (w : Word32) : Instr :=
  if w &&& 0xFF800000 = 0x47800000 then .tspTei (headerFields w) (headerAfc w)
  else if w &&& 0xFF800030 = 0x47000000 then .tspRsv (headerFields w)
  else if w &&& 0xFF800030 = 0x47000010 then .tspPay (headerFields w)
  else if w &&& 0xFF800030 = 0x47000020 then .tspAf (headerFields w)
  else if w &&& 0xFF800030 = 0x47000030 then .tspAfpay (headerFields w)
  else .tspNosync w

/-- The decoder by format. -/
def decode (f : Format) (w : Word32) : Except Reject Instr :=
  match f with
  | .cw32 => decodeCmd w
  | .tspH => .ok (decodeHeader w)

/-- H = p[0], p[1], p[2], p[3] with p[0] most significant (R111, R182). -/
def headerWord (p : List Byte) : Word32 := p.getD 0 0 ++ p.getD 1 0 ++ p.getD 2 0 ++ p.getD 3 0

/-! The encoder. -/

/-- OPC, RSV = 0 and ARG (R117). -/
def encodeCmd (opc : BitVec 8) (arg : BitVec 16) : Word32 := opc ++ 0#8 ++ arg

/-- The byte argument in ARG[7:0]. -/
def byteArg (b : Byte) : BitVec 16 := 0#8 ++ b

/-- The header word of R111 with a good sync byte. -/
def encodeHeader (tei : Bool) (h : Hdr) (afc : BitVec 2) : Word32 :=
  syncByte ++ flag tei ++ flag h.pusi ++ flag h.prio ++ h.pid ++ h.tsc ++ afc ++ h.cc

/-- The word of an instruction, by R111, R113, R117, R118. -/
def encode : Instr → Word32
  | .sysReset => encodeCmd opcSysReset 0
  | .frmStart => encodeCmd opcFrmStart 0
  | .frmAbort => encodeCmd opcFrmAbort 0
  | .crcInit => encodeCmd opcCrcInit 0
  | .crcByte b => encodeCmd opcCrcByte (byteArg b)
  | .crcCheck => encodeCmd opcCrcCheck 0
  | .bcClear => encodeCmd opcBcClear 0
  | .bcPush b => encodeCmd opcBcPush (byteArg b)
  | .bcRdu n => encodeCmd opcBcRdu n
  | .bcRdue => encodeCmd opcBcRdue 0
  | .bcRdse => encodeCmd opcBcRdse 0
  | .bcAlign => encodeCmd opcBcAlign 0
  | .bcRem => encodeCmd opcBcRem 0
  | .tspTei h afc => encodeHeader true h afc
  | .tspRsv h => encodeHeader false h 0
  | .tspPay h => encodeHeader false h 1
  | .tspAf h => encodeHeader false h 2
  | .tspAfpay h => encodeHeader false h 3
  | .tspNosync w => w

/-- The host's question about a table word: a word that matches a command row is that command, any other word is read as
a packet header (log 13). Both formats are 32 bits wide; a longer word is no instruction. -/
def decodeTableWord (nbits w : Nat) : Option Instr :=
  if nbits ≤ 32 ∧ w < 2 ^ 32 then
    match decodeCmd (BitVec.ofNat 32 w) with
    | .ok i => some i
    | .error _ => some (decodeHeader (BitVec.ofNat 32 w))
  else none

end Sys2Proof
end

