-- ==== Sys2Proof/Machine/State.lean ====
section
/-! DEFINITION. The state of TSFE as plain data (R20 to R49), the environment at its ports (R70, R72, R76), the reasons a
step can stop, and the state after reset (R49). -/

namespace Sys2Proof.Machine

open Sys2Proof

/-- A map from numbers to values, held as key and value pairs in one canonical form: keys strictly rising, no value equal
to what an unlisted key reads as (`SMap.wf` in Machine/Ops.lean). -/
abbrev SMap (α : Type) := List (Nat × α)

/-- A byte memory: a list of `Host.Cell`. -/
abbrev Memory := SMap Byte

/-! ## The framer -/

/-- FSTATE (R21). -/
inductive FState where
  | idle
  | probe
  | run
  | done
  | fail
  | aborted
  deriving DecidableEq, Repr

/-- The role of a PID (R28, R30). -/
inductive Role where
  | unclassified
  | psi
  | pes
  deriving DecidableEq, Repr

/-- One record of PIDTAB, with the five counters of R23 and R28; R313 speaks of six, and the model holds five (log 29). -/
structure PidRec where
  valid      : Bool
  role       : Role
  hasCc      : Bool
  lastCc     : BitVec 4
  dupSeen    : Bool
  pktCnt     : Word64
  dupCnt     : Word64
  ccErrCnt   : Word64
  afErrCnt   : Word64
  roleErrCnt : Word64
  deriving DecidableEq, Repr

/-- The reset record: every field 0 (R29, R49). -/
def PidRec.reset : PidRec :=
  { valid := false, role := .unclassified, hasCc := false, lastCc := 0, dupSeen := false, pktCnt := 0, dupCnt := 0,
    ccErrCnt := 0, afErrCnt := 0, roleErrCnt := 0 }

/-- `kind` of an output record (R126). -/
inductive RecKind where
  | nosync
  | tei
  | routed
  deriving DecidableEq, Repr

/-- One output record (R126). -/
structure Record where
  kind         : RecKind
  index        : Word64
  offset       : Word64
  tei          : Bool
  pusi         : Bool
  prio         : Bool
  pid          : Pid
  tsc          : BitVec 2
  afc          : BitVec 2
  cc           : BitVec 4
  afLen        : Byte
  afFlags      : Byte
  di           : Bool
  rai          : Bool
  pcrValid     : Bool
  pcr          : BitVec 42
  opcrValid    : Bool
  opcr         : BitVec 42
  afErr        : Bool
  dup          : Bool
  ccErr        : Bool
  roleMismatch : Bool
  role         : Role
  payValid     : Bool
  payOff       : BitVec 8
  payLen       : BitVec 8
  /-- The payload bytes; absent (empty) when pay_valid = 0. -/
  payload      : List Byte
  deriving DecidableEq, Repr

/-- A record of which only kind, index and offset are set: "every field that is not meaningful for the record's kind is
0" (R126). -/
def Record.blank (kind : RecKind) (index offset : Word64) : Record :=
  { kind, index, offset, tei := false, pusi := false, prio := false, pid := 0, tsc := 0, afc := 0, cc := 0, afLen := 0,
    afFlags := 0, di := false, rai := false, pcrValid := false, pcr := 0, opcrValid := false, opcr := 0, afErr := false,
    dup := false, ccErr := false, roleMismatch := false, role := .unclassified, payValid := false, payOff := 0,
    payLen := 0, payload := [] }

/-- The framer's state (R20, R21 to R32). -/
structure Framer where
  fstate     : FState
  stride     : BitVec 8
  lead       : Bool
  trail      : Bool
  pos        : Word64
  abortReq   : Bool
  pktCount   : Word64
  syncErrors : Word64
  teiCount   : Word64
  ccErrors   : Word64
  dupCount   : Word64
  afErrors   : Word64
  roleErrors : Word64
  pidCount   : Word64
  /-- PIDTAB[0..8191]; an unlisted PID reads as the reset record. -/
  pidtab     : SMap PidRec
  /-- LASTPKT[0..8191]; an unlisted PID reads as 188 zero bytes (log 7). -/
  lastpkt    : SMap (List Byte)
  /-- OUT, oldest record first. -/
  out        : List Record
  deriving DecidableEq, Repr

/-- The framer after reset (R49). -/
def Framer.reset : Framer :=
  { fstate := .idle, stride := 0, lead := false, trail := false, pos := 0, abortReq := false, pktCount := 0,
    syncErrors := 0, teiCount := 0, ccErrors := 0, dupCount := 0, afErrors := 0, roleErrors := 0, pidCount := 0,
    pidtab := [], lastpkt := [], out := [] }

/-! ## The CRC unit -/

/-- CRC_REG, CRC_STATUS.MATCH, CRC_ERRORS (R33). -/
structure CrcUnit where
  reg     : Word32
  matched : Bool
  errors  : Word64
  deriving DecidableEq, Repr

/-- The CRC unit after reset (R49). -/
def CrcUnit.reset : CrcUnit := { reg := 0xFFFFFFFF, matched := false, errors := 0 }

/-! ## The bit cursor and the response register -/

/-- The cause codes of R292. -/
inductive Cause where
  | none
  | illegalCmd
  | badState
  | bcBounds
  | bcWidth
  | bcCodeTooLong
  | bcFull
  deriving DecidableEq, Repr

/-- BUF, BUF_LEN, BITPOS, ERR_STICKY, LAST_CAUSE (R34, R35). -/
structure BitCursor where
  /-- BUF; an unlisted byte reads as 0 (log 8). -/
  buf       : Memory
  bufLen    : Nat
  bitPos    : Nat
  errSticky : Bool
  lastCause : Cause
  deriving DecidableEq, Repr

/-- The bit cursor after reset (R49). -/
def BitCursor.reset : BitCursor := { buf := [], bufLen := 0, bitPos := 0, errSticky := false, lastCause := .none }

/-- RESP by its fields; the other bits of the register read as 0 (R40, U5). -/
structure Resp where
  opc   : BitVec 8
  err   : Bool
  cause : Cause
  value : Word32
  deriving DecidableEq, Repr

/-- RESP = 0 (R49). -/
def Resp.reset : Resp := { opc := 0, err := false, cause := .none, value := 0 }

/-- CFG by its fields; the other bits of the register read as 0 (R41, U5). -/
structure Cfg where
  probeMinRun : BitVec 8
  probeWindow : BitVec 16
  strideMode  : BitVec 3
  deriving DecidableEq, Repr

/-- CFG = 0x0000000000034004 (R49). -/
def Cfg.reset : Cfg := { probeMinRun := 4, probeWindow := 832, strideMode := 0 }

/-! ## The register map -/

/-- The 28 register slots of R36. -/
inductive Slot where
  | cmd
  | resp
  | cfg
  | frmStatus
  | pktCount
  | syncErrors
  | teiCount
  | ccErrors
  | dupCount
  | afErrors
  | roleErrors
  | pidCount
  | streamPos
  | crcReg
  | crcStatus
  | crcErrors
  | bcPos
  | bcLen
  | bcStatus
  | pidSel
  | pidInfo
  | pidPktCnt
  | pidDupCnt
  | pidCcErrCnt
  | pidAfErrCnt
  | pidRoleErrCnt
  | bcCap
  | cancelInterval
  deriving DecidableEq, Repr

/-! ## The ports -/

/-- The header signals of the record output, `rec_<field>` for each field of R126 but the payload, at the widths of its
table: `kind` and `role` are their numbers. -/
structure RecHeader where
  kind         : BitVec 2
  index        : Word64
  offset       : Word64
  tei          : Bool
  pusi         : Bool
  prio         : Bool
  pid          : Pid
  tsc          : BitVec 2
  afc          : BitVec 2
  cc           : BitVec 4
  afLen        : Byte
  afFlags      : Byte
  di           : Bool
  rai          : Bool
  pcrValid     : Bool
  pcr          : BitVec 42
  opcrValid    : Bool
  opcr         : BitVec 42
  afErr        : Bool
  dup          : Bool
  ccErr        : Bool
  roleMismatch : Bool
  role         : BitVec 2
  payValid     : Bool
  payOff       : BitVec 8
  payLen       : BitVec 8
  deriving DecidableEq, Repr

/-- One transfer of the record output (R76): the header signals, or one payload byte with rec_plast. -/
inductive Beat where
  | header (h : RecHeader)
  | data (b : Byte) (last : Bool)
  deriving DecidableEq, Repr

/-- What the host does in one step (R83, R91, R320). -/
inductive Access where
  /-- A 64-bit register read. -/
  | read (a : BitVec 12)
  /-- A 64-bit register write. -/
  | write (a : BitVec 12) (v : Word64)
  /-- The reset input rst_n is asserted and released. -/
  | reset
  deriving DecidableEq, Repr

/-- Who moves in a step (R91, R312; log 1). -/
inductive Turn where
  | host (a : Access)
  | framer
  /-- The stream source hands over up to n bytes. -/
  | source (n : Nat)
  /-- The record sink accepts up to n beats. -/
  | sink (n : Nat)
  /-- The stream source starts over with these bytes; `ends` says whether it will mark the end. -/
  | present (bytes : List Byte) (ends : Bool)
  deriving DecidableEq, Repr

/-- The environment at the ports: no state of the block (R20), but what its steps read and write there. -/
structure Ports where
  /-- STREAM: the bytes of S handed over so far (R72). -/
  stream    : List Byte
  /-- in_last or in_empty has been seen, so N is the length of `stream` (R70, R326). -/
  streamEnd : Bool
  /-- The bytes the source still has to hand over. -/
  input     : List Byte
  /-- The source marks the end of its bytes. -/
  inputEnds : Bool
  /-- The beats of the last record not yet transferred (R76). -/
  recPort   : List Beat
  /-- The beats the sink has accepted since reset (R76). -/
  sinkGot   : List Beat
  /-- reg_rdata: what the last register read returned. -/
  rdata     : Word64
  /-- Who moves next; when it is empty, everything runs freely (log 1). -/
  turns     : List Turn
  deriving DecidableEq, Repr

/-- Nothing offered, nothing transferred (log 2, log 6, log 10). -/
def Ports.reset : Ports :=
  { stream := [], streamEnd := false, input := [], inputEnds := false, recPort := [], sinkGot := [], rdata := 0,
    turns := [] }

end Sys2Proof.Machine

namespace Sys2Proof.Machine

open Sys2Proof

/-- The whole machine (R20): three units, the registers they share with the host, the static parameters, the ports. -/
structure State where
  frm    : Framer
  crc    : CrcUnit
  bc     : BitCursor
  cfg    : Cfg
  resp   : Resp
  pidSel : Pid
  pidWin : PidRec
  params : Params
  ports  : Ports
  deriving DecidableEq, Repr

/-- The state after reset (R49), with the default parameters (R4). -/
def State.reset : State :=
  { frm := Framer.reset, crc := CrcUnit.reset, bc := BitCursor.reset, cfg := Cfg.reset, resp := Resp.reset, pidSel := 0,
    pidWin := PidRec.reset, params := Params.default, ports := Ports.reset }

/-- The conditions the block reports while it goes on: stream events and the CRC verdict (R290 classes B and C). -/
inductive Event where
  | framingError
  | syncLoss
  | transportError
  | adaptationFieldError (pid : Pid)
  | continuityError (pid : Pid)
  | duplicatePacket (pid : Pid)
  | roleMismatch (pid : Pid)
  | crcMismatch
  deriving DecidableEq, Repr

/-- Why a step can stop with a fault. -/
inductive Fault where
  /-- Raised by the six packet forms when the unit at POS does not lie wholly in STREAM ("`MemRead(STREAM:off, n)` is
  defined only when `off + n <= N`", R72) or is too short for a core. A step runs a packet form only when its unit has
  arrived, so from a state that meets the invariants no step raises it. Safe. -/
  | streamUnderrun
  deriving DecidableEq, Repr

/-- Why an instruction can be refused. -/
inductive Refusal where
  /-- An instruction without a meaning, rejected by its mnemonic. No arm of `exec` answers it. Safe. -/
  | notModelled (mnemonic : String)
  deriving DecidableEq, Repr

/-- The outcome of a meaning or of a step. -/
abbrev Out := Host.Outcome State Fault Refusal

end Sys2Proof.Machine
end

