-- ==== Sys2Proof/Machine/Ops.lean ====
section
/-! DEFINITION. The named operations over memories and registers: sparse maps and their canonical form, the reads of the
address spaces (R72 to R74), the numeric codes (R21, R28, R126, R292), the response (R40), the events (R291, R305), bc_fail
(R250), reset (R320, R321), source and sink (R70, R76), and what every packet step does (R180, R181). -/

namespace Sys2Proof.Machine

open Sys2Proof

/-! ## Codes -/

/-- FSTATE as three bits (R21). -/
def fstateCode : FState → BitVec 3
  | .idle => 0
  | .probe => 1
  | .run => 2
  | .done => 3
  | .fail => 4
  | .aborted => 5

/-- role as two bits (R28). -/
def roleCode : Role → BitVec 2
  | .unclassified => 0
  | .psi => 1
  | .pes => 2

/-- kind of an output record as two bits (R126). -/
def kindCode : RecKind → BitVec 2
  | .nosync => 0
  | .tei => 1
  | .routed => 2

/-- The cause codes (R292). -/
def causeCode : Cause → BitVec 4
  | .none => 0
  | .illegalCmd => 1
  | .badState => 2
  | .bcBounds => 3
  | .bcWidth => 4
  | .bcCodeTooLong => 5
  | .bcFull => 6

/-! ## Sparse maps -/

/-- The value at a key; `d` where nothing is listed. -/
def SMap.get {α : Type} (d : α) : SMap α → Nat → α
  | [], _ => d
  | (k', v) :: m, k => if k = k' then v else SMap.get d m k

/-- Insert or replace, keeping the keys rising. -/
def SMap.put {α : Type} : SMap α → Nat → α → SMap α
  | [], k, v => [(k, v)]
  | (k', v') :: m, k, v =>
    if k < k' then (k, v) :: (k', v') :: m
    else if k = k' then (k, v) :: m
    else (k', v') :: SMap.put m k v

/-- Remove a key, wherever it is listed. -/
def SMap.del {α : Type} : SMap α → Nat → SMap α
  | [], _ => []
  | (k', v') :: m, k => if k = k' then SMap.del m k else (k', v') :: SMap.del m k

/-- Write: the value an unlisted key reads as is not listed. -/
def SMap.set {α : Type} [DecidableEq α] (d : α) (m : SMap α) (k : Nat) (v : α) : SMap α :=
  if v = d then SMap.del m k else SMap.put m k v

/-- The canonical form: keys strictly rising, no value equal to the default. -/
abbrev SMap.wf {α : Type} (d : α) (m : SMap α) : Prop :=
  (m.map Prod.fst).Pairwise (· < ·) ∧ ∀ e ∈ m, e.2 ≠ d

/-- What a byte nothing has written reads as (log 8). -/
def Memory.unlisted : Byte := 0

/-- Read one byte. -/
def Memory.read (m : Memory) (a : Nat) : Byte := SMap.get Memory.unlisted m a

/-- Write one byte. -/
def Memory.write (m : Memory) (a : Nat) (v : Byte) : Memory := SMap.set Memory.unlisted m a v

/-- The canonical form of a byte memory. -/
abbrev Memory.wf (m : Memory) : Prop := SMap.wf Memory.unlisted m

/-! ## The address spaces -/

/-- MemRead(STREAM:off, n) of R72, over the bytes that have arrived. -/
def streamRead (s : State) (off n : Nat) : Option (List Byte) :=
  if off + n ≤ s.ports.stream.length then some ((s.ports.stream.drop off).take n) else none

/-- One byte of BUF (R73). -/
def bufRead (s : State) (i : Nat) : Byte := s.bc.buf.read i

/-- What LASTPKT[i] reads as before the first routed packet of PID i (log 7). -/
def unwrittenCore : List Byte := List.replicate pktLen 0

/-- MemRead(LAST[pid]:0, 188) of R74. -/
def lastRead (s : State) (pid : Pid) : List Byte := SMap.get unwrittenCore s.frm.lastpkt pid.toNat

/-- MemWrite(LAST[pid]:0, 188, p) of R74. -/
def lastWrite (pid : Pid) (p : List Byte) (s : State) : State :=
  { s with frm.lastpkt := SMap.set unwrittenCore s.frm.lastpkt pid.toNat p }

/-- The record x[pid] (R28). -/
def pidRead (s : State) (pid : Pid) : PidRec := SMap.get PidRec.reset s.frm.pidtab pid.toNat

/-- Write fields of x[pid]. -/
def pidUpdate (pid : Pid) (f : PidRec → PidRec) (s : State) : State :=
  { s with frm.pidtab := SMap.set PidRec.reset s.frm.pidtab pid.toNat (f (pidRead s pid)) }

/-! ## The response -/

/-- `resp(err, cause, value)` with RESP.OPC (R40, R119): ERR = 1 exactly when CAUSE is not NONE. -/
def respond (opc : BitVec 8) (cause : Cause) (value : Word32) (s : State) : State :=
  { s with resp := { opc, err := decide (cause ≠ .none), cause, value } }

/-- A command that succeeds with this value. -/
def respondOk (opc : BitVec 8) (value : Word32) (s : State) : State := respond opc .none value s

/-- A command that fails: VALUE is 0 (R40). -/
def respondErr (opc : BitVec 8) (cause : Cause) (s : State) : State := respond opc cause 0 s

/-- `bc_fail(c)` of R250: the sticky pair and RESP, "and nothing else changes". -/
def bcFail (opc : BitVec 8) (cause : Cause) (s : State) : State :=
  respondErr opc cause { s with bc.errSticky := true, bc.lastCause := cause }

/-! ## Events -/

/-- `raise E`: exactly the state changes of the table of R305 (its counters and its column "other state"; last_cc, has_cc,
LAST[pid] and dup_seen of a continuity error are written by `remember`, R203). Control goes nowhere (R291). -/
def raiseEvent (e : Event) (s : State) : State :=
  match e with
  | .framingError => { s with frm.fstate := .fail }
  | .syncLoss => { s with frm.syncErrors := s.frm.syncErrors + 1 }
  | .transportError => { s with frm.teiCount := s.frm.teiCount + 1 }
  | .adaptationFieldError pid =>
    pidUpdate pid (fun x => { x with afErrCnt := x.afErrCnt + 1 }) { s with frm.afErrors := s.frm.afErrors + 1 }
  | .continuityError pid =>
    pidUpdate pid (fun x => { x with ccErrCnt := x.ccErrCnt + 1 }) { s with frm.ccErrors := s.frm.ccErrors + 1 }
  | .duplicatePacket pid =>
    pidUpdate pid (fun x => { x with dupCnt := x.dupCnt + 1, dupSeen := true })
      { s with frm.dupCount := s.frm.dupCount + 1 }
  | .roleMismatch pid =>
    pidUpdate pid (fun x => { x with roleErrCnt := x.roleErrCnt + 1 }) { s with frm.roleErrors := s.frm.roleErrors + 1 }
  | .crcMismatch => { s with crc.matched := false, crc.errors := s.crc.errors + 1 }

/-! ## Reset -/

/-- The ports when the block is reset: what it had received and not consumed, and what was not yet transferred, is dropped
(R161, R331); the source, the bus and the order of the moves are outside the block (log 11). -/
def resetPorts (p : Ports) : Ports :=
  { p with stream := [], streamEnd := false, recPort := [], sinkGot := [] }

/-- Hardware reset (R320): every piece of state at the value of R49; the static parameters are unaffected. -/
def hardReset (s : State) : State :=
  { State.reset with params := s.params, ports := resetPorts s.ports }

/-! ## The stream source and the record sink -/

/-- in_ready: bytes are taken in PROBE and RUN until the end mark (R162, R322, R326). -/
def inReady (s : State) : Bool :=
  (s.frm.fstate == .probe || s.frm.fstate == .run) && !s.ports.streamEnd

/-- in_empty: the source declares a stream of length 0 (R70). -/
def inEmpty (s : State) : Bool := s.ports.input.isEmpty && s.ports.inputEnds

/-- Up to n bytes are transferred; in_last accompanies the final one (R70, R326). -/
def sourceStep (n : Nat) (s : State) : State :=
  if inReady s && !(s.ports.input.take n).isEmpty then
    let last := s.ports.inputEnds && (s.ports.input.drop n).isEmpty
    { s with
      ports.stream := s.ports.stream ++ s.ports.input.take n
      ports.input := s.ports.input.drop n
      ports.streamEnd := last
      ports.inputEnds := s.ports.inputEnds && !last }
  else s

/-- The source starts over with other bytes (R325, R331; log 25). -/
def presentStep (bytes : List Byte) (ends : Bool) (s : State) : State :=
  { s with ports.input := bytes, ports.inputEnds := ends }

/-- The payload beats: rec_plast = 1 on the last (R76). -/
def dataBeats : List Byte → List Beat
  | [] => []
  | b :: bs => .data b bs.isEmpty :: dataBeats bs

/-- The header signals of a record (R126). -/
def Record.header (r : Record) : RecHeader :=
  { kind := kindCode r.kind
    index := r.index, offset := r.offset
    tei := r.tei, pusi := r.pusi, prio := r.prio, pid := r.pid, tsc := r.tsc, afc := r.afc, cc := r.cc
    afLen := r.afLen, afFlags := r.afFlags, di := r.di, rai := r.rai
    pcrValid := r.pcrValid, pcr := r.pcr, opcrValid := r.opcrValid, opcr := r.opcr
    afErr := r.afErr, dup := r.dup, ccErr := r.ccErr, roleMismatch := r.roleMismatch
    role := roleCode r.role
    payValid := r.payValid, payOff := r.payOff, payLen := r.payLen }

/-- The transfers of one record: the header, then, if pay_valid = 1 and pay_len > 0, the payload bytes (R76). -/
def recordBeats (r : Record) : List Beat :=
  .header r.header :: (if r.payValid && decide (r.payLen ≠ 0) then dataBeats r.payload else [])

/-- The sink accepts up to n beats, in order (R76, R327). -/
def sinkStep (n : Nat) (s : State) : State :=
  { s with ports.sinkGot := s.ports.sinkGot ++ s.ports.recPort.take n, ports.recPort := s.ports.recPort.drop n }

/-! ## What every packet step does -/

/-- `emit(rec)`: one record is appended to OUT (R181) and offered at the record output (R76). -/
def emit (r : Record) (s : State) : State :=
  { s with frm.out := s.frm.out ++ [r], ports.recPort := recordBeats r }

/-- PKT_COUNT + 1 and POS + STRIDE, for every form without exception (R180). -/
def advance (s : State) : State :=
  { s with frm.pktCount := s.frm.pktCount + 1, frm.pos := s.frm.pos + s.frm.stride.setWidth 64 }

/-- The number of lead bytes of a unit (R22). -/
def leadBytes (s : State) : Nat := if s.frm.lead then 4 else 0

/-- The unit u at POS and its core p = u[4*LEAD .. 4*LEAD + 187] (R110, R180). -/
def fetchCore (s : State) : Option (List Byte) :=
  match streamRead s s.frm.pos.toNat s.frm.stride.toNat with
  | some u =>
    let p := (u.drop (leadBytes s)).take pktLen
    if p.length = pktLen then some p else none
  | none => none

/-- A packet form runs on the core of the unit at POS; without one there is nothing to read (log 14). -/
def onUnit (f : List Byte → State → State) (s : State) : Out :=
  match fetchCore s with
  | some p => .next (f p s)
  | none => .fault .streamUnderrun

end Sys2Proof.Machine
end

