-- ==== Sys2Proof/Machine/Operands.lean ====
section
/-! DEFINITION. The operand forms: bytes and fields of a packet core (R110, R114 to R116, R190 to R196), the stride table
(R3), bits of the cursor's buffer (R251) and exponential-Golomb codewords (R122, R258, R260). -/

namespace Sys2Proof.Machine

open Sys2Proof

/-! ## The stride table -/

/-- One row of the table of R3. -/
structure StrideRow where
  stride : BitVec 8
  lead   : Bool
  trail  : Bool
  deriving DecidableEq, Repr

def row188 : StrideRow := { stride := 188, lead := false, trail := false }
def row192 : StrideRow := { stride := 192, lead := true, trail := false }
def row204 : StrideRow := { stride := 204, lead := false, trail := true }
def row208 : StrideRow := { stride := 208, lead := true, trail := true }

/-- The four strides in the order the candidates are tried (R3, R155). -/
def strideTable : List StrideRow := [row188, row192, row204, row208]

/-- The row a STRIDE_CODE forces (R3, R154); none for auto-detection. The codes 5 to 7 are never held by CFG (R41; log 20). -/
def forcedRow (mode : BitVec 3) : Option StrideRow :=
  if mode = 1 then some row188
  else if mode = 2 then some row192
  else if mode = 3 then some row204
  else if mode = 4 then some row208
  else none

/-- The unit offset of the sync byte (R3). -/
def rowLead (r : StrideRow) : Nat := if r.lead then 4 else 0

/-! ## The packet core -/

/-- p[i]. -/
def coreByte (p : List Byte) (i : Nat) : Byte := p.getD i 0

/-- A clock reference: the 33-bit base of q[0..4] and the 9-bit extension of q[4], q[5], as base, ext in 42 bits (R115);
`q = p[o .. o+5]`. -/
def clockRef (p : List Byte) (o : Nat) : BitVec 42 :=
  coreByte p o ++ coreByte p (o + 1) ++ coreByte p (o + 2) ++ coreByte p (o + 3)
    ++ (coreByte p (o + 4)).extractLsb' 7 1 ++ (coreByte p (o + 4)).extractLsb' 0 1 ++ coreByte p (o + 5)

/-- What R190 to R195 read from the adaptation field. -/
structure AfInfo where
  len       : Byte
  err       : Bool
  flags     : Byte
  di        : Bool
  rai       : Bool
  pcrValid  : Bool
  pcr       : BitVec 42
  opcrValid : Bool
  opcr      : BitVec 42
  deriving DecidableEq, Repr

/-- R190: no adaptation field. -/
def afAbsent : AfInfo :=
  { len := 0, err := false, flags := 0, di := false, rai := false, pcrValid := false, pcr := 0, opcrValid := false,
    opcr := 0 }

/-- The offset of the OPCR: after the PCR when one is flagged, whether or not it was valid (R195). -/
def opcrOffset (flags : Byte) : Nat := if flags.getLsbD 4 then 12 else 6

/-- The flags byte: 0 when the field is empty (R193). -/
def afFlagsOf (p : List Byte) : Byte := if 1 ≤ (coreByte p 4).toNat then coreByte p 5 else 0

/-- R194: flagged, and one flags byte and six PCR bytes fit inside the declared length. -/
def pcrFits (len flags : Byte) : Bool := flags.getLsbD 4 && decide (7 ≤ len.toNat)

/-- R195: flagged, and the six bytes at the OPCR's offset lie inside the declared length. -/
def opcrFits (len flags : Byte) : Bool := flags.getLsbD 3 && decide (opcrOffset flags + 1 ≤ len.toNat)

/-- R191 to R195: an adaptation field is present. -/
def afPresent (p : List Byte) : AfInfo :=
  if 183 < (coreByte p 4).toNat then { afAbsent with len := coreByte p 4, err := true }
  else
    { len := coreByte p 4
      err := false
      flags := afFlagsOf p
      di := (afFlagsOf p).getLsbD 7
      rai := (afFlagsOf p).getLsbD 6
      pcrValid := pcrFits (coreByte p 4) (afFlagsOf p)
      pcr := if pcrFits (coreByte p 4) (afFlagsOf p) then clockRef p 6 else 0
      opcrValid := opcrFits (coreByte p 4) (afFlagsOf p)
      opcr := if opcrFits (coreByte p 4) (afFlagsOf p) then clockRef p (opcrOffset (afFlagsOf p)) else 0 }

/-- af_present = afc[1] (R112). -/
def parseAf (afc : BitVec 2) (p : List Byte) : AfInfo := if afc.getLsbD 1 then afPresent p else afAbsent

/-- located = has_payload and not af_err, with has_payload = afc[0] (R112, R196). -/
def payLocated (afc : BitVec 2) (af : AfInfo) : Bool := afc.getLsbD 0 && !af.err

/-- pay_off (R196): 0 when no payload is located. -/
def payOffset (afc : BitVec 2) (af : AfInfo) : BitVec 8 :=
  if payLocated afc af then (if afc.getLsbD 1 then 5 + af.len else 4) else 0

/-- pay_len (R196): 188 - pay_off, 0 when no payload is located. -/
def payLength (afc : BitVec 2) (af : AfInfo) : BitVec 8 :=
  if payLocated afc af then 188 - payOffset afc af else 0

/-- p[pay_off .. 187] (R204). -/
def payBytes (p : List Byte) (off : BitVec 8) : List Byte := p.drop off.toNat

/-! ## The bit cursor's buffer -/

/-- NBITS = 8 * BUF_LEN. -/
def nbits (s : State) : Nat := 8 * s.bc.bufLen

/-- bit(i) of R251: byte 0 first, most significant bit first. -/
def bitAt (s : State) (i : Nat) : Bool := (bufRead s (i / 8)).getLsbD (7 - i % 8)

/-- bits(a, n) of R251: the first bit is the most significant. -/
def bitsVal (s : State) (a : Nat) : Nat → Nat
  | 0 => 0
  | n + 1 => 2 * bitsVal s a n + (bitAt s (a + n)).toNat

/-- The loop of R258 from bit number j with `fuel` = 32 - j bits still admitted: the count of leading zeros, or the cause. -/
def scanZeros (s : State) : (fuel j : Nat) → Except Cause Nat
  | 0, _ => .error .bcCodeTooLong
  | fuel + 1, j =>
    if nbits s ≤ s.bc.bitPos + j then .error .bcBounds
    else if bitAt s (s.bc.bitPos + j) then .ok j
    else scanZeros s fuel (j + 1)

/-- A decoded codeword: its unsigned value m and the bits it takes. -/
structure Codeword where
  value : Nat
  width : Nat
  deriving DecidableEq, Repr

/-- The scan of R258. -/
def readCodeword (s : State) : Except Cause Codeword :=
  match scanZeros s 32 0 with
  | .error c => .error c
  | .ok k =>
    if nbits s < s.bc.bitPos + 2 * k + 1 then .error .bcBounds
    else .ok { value := 2 ^ k - 1 + bitsVal s (s.bc.bitPos + k + 1) k, width := 2 * k + 1 }

/-- The signed value of an unsigned code (R260). -/
def signedOf (m : Nat) : Int := if m % 2 = 1 then ((m + 1) / 2 : Nat) else -((m / 2 : Nat) : Int)

end Sys2Proof.Machine
end

