-- ==== Sys2Proof/Machine/Flags.lean ====
section
/-! DEFINITION. Every flag computation: the continuity verdict (R198, R200), the classification (R206), the CRC step and
verdict (R231, R236). -/

namespace Sys2Proof.Machine

open Sys2Proof

/-! ## Continuity -/

/-- The outcome of R198 and R200. -/
inductive Verdict where
  /-- The check is not made. -/
  | unchecked
  /-- Case (1). -/
  | inSequence
  /-- Case (2): a tolerated duplicate. -/
  | duplicate
  /-- Case (3): a continuity error. -/
  | error
  deriving DecidableEq, Repr

/-- R198 and R200: `last` is MemRead(LAST[pid]:0, 188). -/
def continuity (hasPayload di : Bool) (x : PidRec) (cc : BitVec 4) (p last : List Byte) : Verdict :=
  if hasPayload && !di && x.hasCc then
    if cc = x.lastCc + 1 then .inSequence
    else if cc = x.lastCc ∧ p = last ∧ x.dupSeen = false then .duplicate
    else .error
  else .unchecked

/-- dup (R200). -/
def isDup (v : Verdict) : Bool := v == .duplicate

/-- cc_err (R200). -/
def isCcErr (v : Verdict) : Bool := v == .error

/-- pay_valid (R204). -/
def payValidOf (located : Bool) (v : Verdict) : Bool := located && !isDup v && !isCcErr v

/-! ## Role -/

/-- The classification of an eligible packet (R206). -/
def classify (p : List Byte) (off len : BitVec 8) : Role :=
  if 3 ≤ len.toNat ∧ coreByte p off.toNat = 0 ∧ coreByte p (off.toNat + 1) = 0 ∧ coreByte p (off.toNat + 2) = 1 then .pes
  else .psi

/-- role_mismatch (R207). -/
def roleMismatchOf (eligible : Bool) (role cls : Role) : Bool :=
  eligible && decide (role ≠ .unclassified) && decide (role ≠ cls)

/-! ## CRC -/

/-- One shift of R231. -/
def crcShift (poly c : Word32) : Word32 := if c.getLsbD 31 then (c <<< 1) ^^^ poly else c <<< 1

/-- n shifts. -/
def crcShifts (poly : Word32) : Nat → Word32 → Word32
  | 0, c => c
  | n + 1, c => crcShifts poly n (crcShift poly c)

/-- `crc_step(c, b)` of R231. -/
def crcStep (poly c : Word32) (b : Byte) : Word32 := crcShifts poly 8 (c ^^^ (b.setWidth 32 <<< 24))

/-- `crc_fold(c, s)` of R231. -/
def crcFold (poly : Word32) : Word32 → List Byte → Word32
  | c, [] => c
  | c, b :: bs => crcFold poly (crcStep poly c b) bs

/-- The initial register value (R230). -/
def crcInitValue : Word32 := 0xFFFFFFFF

/-- `crc(s)` of R231. -/
def crcOf (poly : Word32) (m : List Byte) : Word32 := crcFold poly crcInitValue m

end Sys2Proof.Machine
end

