-- ==== Sys2Proof/Machine/Crc.lean ====
section
/-! DEFINITION. CRC.INIT, CRC.BYTE, CRC.CHECK (R232, R233, R236). -/

namespace Sys2Proof.Machine

open Sys2Proof

/-- CRC.INIT (R232). -/
def execCrcInit (s : State) : Out := .next (respondOk opcCrcInit 0 { s with crc.reg := crcInitValue })

/-- CRC.BYTE b (R233): RESP.VALUE echoes the byte. -/
def execCrcByte (b : Byte) (s : State) : Out :=
  .next (respondOk opcCrcByte (b.setWidth 32) { s with crc.reg := crcStep s.params.crcPoly s.crc.reg b })

/-- CRC.CHECK (R236): a mismatch is a verdict (R301), no command error; the register is not modified. -/
def execCrcCheck (s : State) : Out :=
  .next (respondOk opcCrcCheck s.crc.reg
    (if s.crc.reg = 0 then { s with crc.matched := true } else raiseEvent .crcMismatch s))

end Sys2Proof.Machine
end

