-- ==== Sys2Proof/Machine/Cursor.lean ====
section
/-! DEFINITION. BC.CLEAR, BC.PUSH, BC.RDU, BC.RDUE, BC.RDSE, BC.ALIGN, BC.REM (R252 to R262). -/

namespace Sys2Proof.Machine

open Sys2Proof

/-- BC.CLEAR (R252): the bytes of BUF are not erased. -/
def execBcClear (s : State) : Out :=
  .next (respondOk opcBcClear 0
    { s with bc.bufLen := 0, bc.bitPos := 0, bc.errSticky := false, bc.lastCause := .none })

/-- BC.PUSH b (R253): the value is the new length. -/
def execBcPush (b : Byte) (s : State) : Out :=
  if s.bc.bufLen = s.params.bcBufBytes then .next (bcFail opcBcPush .bcFull s)
  else
    .next (respondOk opcBcPush (BitVec.ofNat 32 (s.bc.bufLen + 1))
      { s with bc.buf := s.bc.buf.write s.bc.bufLen b, bc.bufLen := s.bc.bufLen + 1 })

/-- BC.RDU n (R255): the width test comes first. -/
def execBcRdu (n : BitVec 16) (s : State) : Out :=
  if n.toNat < 1 ∨ 32 < n.toNat then .next (bcFail opcBcRdu .bcWidth s)
  else if nbits s < s.bc.bitPos + n.toNat then .next (bcFail opcBcRdu .bcBounds s)
  else
    .next (respondOk opcBcRdu (BitVec.ofNat 32 (bitsVal s s.bc.bitPos n.toNat))
      { s with bc.bitPos := s.bc.bitPos + n.toNat })

/-- BC.RDUE (R258). -/
def execBcRdue (s : State) : Out :=
  match readCodeword s with
  | .error c => .next (bcFail opcBcRdue c s)
  | .ok w =>
    .next (respondOk opcBcRdue (BitVec.ofNat 32 w.value) { s with bc.bitPos := s.bc.bitPos + w.width })

/-- BC.RDSE (R260): the signed value in 32-bit two's complement. -/
def execBcRdse (s : State) : Out :=
  match readCodeword s with
  | .error c => .next (bcFail opcBcRdse c s)
  | .ok w =>
    .next (respondOk opcBcRdse (BitVec.ofInt 32 (signedOf w.value)) { s with bc.bitPos := s.bc.bitPos + w.width })

/-- BC.ALIGN (R261): to the next byte boundary; it never fails. -/
def execBcAlign (s : State) : Out :=
  .next (respondOk opcBcAlign 0 { s with bc.bitPos := 8 * ((s.bc.bitPos + 7) / 8) })

/-- BC.REM (R262): the bits that remain. -/
def execBcRem (s : State) : Out := .next (respondOk opcBcRem (BitVec.ofNat 32 (nbits s - s.bc.bitPos)) s)

end Sys2Proof.Machine
end

