-- ==== Sys2Proof/Machine/Packet.lean ====
section
/-! DEFINITION. The packet step of the six packet forms (R180 to R215). -/

namespace Sys2Proof.Machine

open Sys2Proof

/-! ## Units that are not routed -/

/-- TSP.NOSYNC (R183): nothing of the unit is parsed. -/
def nosyncUnit (s : State) : State :=
  emit (Record.blank .nosync s.frm.pktCount s.frm.pos) (raiseEvent .syncLoss (advance s))

/-- The record of an error-indicator packet (R185). -/
def teiRecord (h : Hdr) (afc : BitVec 2) (index offset : Word64) : Record :=
  { Record.blank .tei index offset with
    tei := true, pusi := h.pusi, prio := h.prio, pid := h.pid, tsc := h.tsc, afc, cc := h.cc }

/-- TSP.TEI (R185): no PIDTAB record is created, read or written. -/
def teiUnit (h : Hdr) (afc : BitVec 2) (s : State) : State :=
  emit (teiRecord h afc s.frm.pktCount s.frm.pos) (raiseEvent .transportError (advance s))

/-! ## Routed packets: the parts of R186, in its order -/

/-- R187 and R188: the record is created when it does not exist, and the packet is counted. -/
def touchPid (pid : Pid) (s : State) : State :=
  let created : Word64 := if (pidRead s pid).valid then 0 else 1
  pidUpdate pid (fun x => { x with valid := true, pktCnt := x.pktCnt + 1 })
    { s with frm.pidCount := s.frm.pidCount + created }

/-- R192: an overrun is counted; nothing else of the adaptation field touches the state. -/
def countAf (pid : Pid) (af : AfInfo) (s : State) : State :=
  if af.err then raiseEvent (.adaptationFieldError pid) s else s

/-- R203: the counter and the bytes of the packet are remembered. -/
def remember (pid : Pid) (cc : BitVec 4) (p : List Byte) (s : State) : State :=
  lastWrite pid p (pidUpdate pid (fun x => { x with lastCc := cc, hasCc := true, dupSeen := false }) s)

/-- The verdict on a packet, from x[pid] and LAST[pid] as they stand (R198, R200). -/
def verdictOf (h : Hdr) (afc : BitVec 2) (af : AfInfo) (p : List Byte) (s : State) : Verdict :=
  continuity (afc.getLsbD 0) af.di (pidRead s h.pid) h.cc p (lastRead s h.pid)

/-- R201 to R203: a duplicate is counted and leaves the expectation; every other packet is remembered. -/
def applyVerdict (v : Verdict) (h : Hdr) (p : List Byte) (s : State) : State :=
  match v with
  | .duplicate => raiseEvent (.duplicatePacket h.pid) s
  | .error => raiseEvent (.continuityError h.pid) (remember h.pid h.cc p s)
  | .inSequence => remember h.pid h.cc p s
  | .unchecked => remember h.pid h.cc p s

/-- R205 to R207: an eligible packet sets an unset role, or is counted when it disagrees with a fixed one. -/
def applyRole (eligible : Bool) (cls : Role) (pid : Pid) (s : State) : State :=
  if eligible then
    if (pidRead s pid).role = .unclassified then pidUpdate pid (fun x => { x with role := cls }) s
    else if (pidRead s pid).role ≠ cls then raiseEvent (.roleMismatch pid) s
    else s
  else s

/-- The record of a routed packet (R208); `role` is x[pid].role after R206 and R207. -/
def routedRecord (h : Hdr) (afc : BitVec 2) (af : AfInfo) (v : Verdict) (mismatch : Bool) (role : Role) (p : List Byte)
    (index offset : Word64) : Record :=
  { kind := .routed
    index, offset
    tei := false, pusi := h.pusi, prio := h.prio, pid := h.pid, tsc := h.tsc, afc, cc := h.cc
    afLen := af.len, afFlags := af.flags, di := af.di, rai := af.rai
    pcrValid := af.pcrValid, pcr := af.pcr, opcrValid := af.opcrValid, opcr := af.opcr
    afErr := af.err
    dup := isDup v, ccErr := isCcErr v
    roleMismatch := mismatch
    role
    payValid := payValidOf (payLocated afc af) v
    payOff := payOffset afc af, payLen := payLength afc af
    payload := if payValidOf (payLocated afc af) v then payBytes p (payOffset afc af) else [] }

/-- The step of the four routed forms (R186 to R208, R215). -/
def routedUnit (h : Hdr) (afc : BitVec 2) (p : List Byte) (s : State) : State :=
  let af := parseAf afc p
  let s₁ := countAf h.pid af (touchPid h.pid (advance s))
  let v := verdictOf h afc af p s₁
  let s₂ := applyVerdict v h p s₁
  let eligible := h.pusi && payValidOf (payLocated afc af) v
  let cls := classify p (payOffset afc af) (payLength afc af)
  let s₃ := applyRole eligible cls h.pid s₂
  let mismatch := roleMismatchOf eligible (pidRead s₂ h.pid).role cls
  emit (routedRecord h afc af v mismatch (pidRead s₃ h.pid).role p s.frm.pktCount s.frm.pos) s₃

/-! ## One meaning per form -/

/-- TSP.NOSYNC (R183). -/
def execTspNosync (_w : Word32) (s : State) : Out := onUnit (fun _ s => nosyncUnit s) s

/-- TSP.TEI (R185). -/
def execTspTei (h : Hdr) (afc : BitVec 2) (s : State) : Out := onUnit (fun _ s => teiUnit h afc s) s

/-- TSP.RSV (R210): routed, neither adaptation field nor payload. -/
def execTspRsv (h : Hdr) (s : State) : Out := onUnit (routedUnit h 0) s

/-- TSP.PAY (R211): routed, payload only. -/
def execTspPay (h : Hdr) (s : State) : Out := onUnit (routedUnit h 1) s

/-- TSP.AF (R212): routed, adaptation field only. -/
def execTspAf (h : Hdr) (s : State) : Out := onUnit (routedUnit h 2) s

/-- TSP.AFPAY (R213): routed, adaptation field and payload. -/
def execTspAfpay (h : Hdr) (s : State) : Out := onUnit (routedUnit h 3) s

end Sys2Proof.Machine
end

