-- ==== Sys2Proof/Machine/System.lean ====
section
/-! DEFINITION. SYS.RESET, FRM.START, FRM.ABORT (R161, R152, R165). -/

namespace Sys2Proof.Machine

open Sys2Proof

/-- SYS.RESET (R161, R321): the hardware reset, then the response with OPC 0x01. It cannot fail. -/
def execSysReset (s : State) : Out := .next (respondOk opcSysReset 0 (hardReset s))

/-- FRM.START (R152); in_empty is sampled when it is accepted (R70). What the source declares afterwards the spec leaves
open: the declaration of an empty stream is used up, so a later run waits for a new one (log 3). -/
def execFrmStart (s : State) : Out :=
  if s.frm.fstate = .idle then
    .next (respondOk opcFrmStart 0
      { s with frm.fstate := .probe, ports.streamEnd := inEmpty s, ports.inputEnds := s.ports.inputEnds && !inEmpty s })
  else .next (respondErr opcFrmStart .badState s)

/-- FRM.ABORT (R165): a request, which the framer examines (R166). -/
def execFrmAbort (s : State) : Out :=
  if s.frm.fstate = .probe ∨ s.frm.fstate = .run then
    .next (respondOk opcFrmAbort 0 { s with frm.abortReq := true })
  else .next (respondErr opcFrmAbort .badState s)

end Sys2Proof.Machine
end

