-- ==== Sys2Proof/Machine/Dispatch.lean ====
section
/-! DEFINITION. One arm per row of the opcode table. -/

namespace Sys2Proof.Machine

open Sys2Proof

def exec (i : Instr) (s : State) : Host.Outcome State Fault Refusal :=
  match i with
  | .sysReset => Sys2Proof.Machine.execSysReset s
  | .frmStart => Sys2Proof.Machine.execFrmStart s
  | .frmAbort => Sys2Proof.Machine.execFrmAbort s
  | .crcInit => Sys2Proof.Machine.execCrcInit s
  | .crcByte b => Sys2Proof.Machine.execCrcByte b s
  | .crcCheck => Sys2Proof.Machine.execCrcCheck s
  | .bcClear => Sys2Proof.Machine.execBcClear s
  | .bcPush b => Sys2Proof.Machine.execBcPush b s
  | .bcRdu n => Sys2Proof.Machine.execBcRdu n s
  | .bcRdue => Sys2Proof.Machine.execBcRdue s
  | .bcRdse => Sys2Proof.Machine.execBcRdse s
  | .bcAlign => Sys2Proof.Machine.execBcAlign s
  | .bcRem => Sys2Proof.Machine.execBcRem s
  | .tspTei h afc => Sys2Proof.Machine.execTspTei h afc s
  | .tspRsv h => Sys2Proof.Machine.execTspRsv h s
  | .tspPay h => Sys2Proof.Machine.execTspPay h s
  | .tspAf h => Sys2Proof.Machine.execTspAf h s
  | .tspAfpay h => Sys2Proof.Machine.execTspAfpay h s
  | .tspNosync w => Sys2Proof.Machine.execTspNosync w s

end Sys2Proof.Machine
end

