-- ==== Sys2Proof/Machine/Framer.lean ====
section
/-! DEFINITION. The framer agent apart from the packet step: which step is enabled (R151), the probe step (R153 to R158),
the end step (R160), the abort step (R167). -/

namespace Sys2Proof.Machine

open Sys2Proof

/-- What the framer does when it moves (R151). -/
inductive FrmStep where
  /-- IDLE, DONE, FAIL, ABORTED: no step is enabled. -/
  | idle
  /-- PROBE or RUN, but the bytes the step reads have not arrived, or the previous record is still at the port. -/
  | waiting
  | probe
  | packet
  | finish
  | abort
  deriving DecidableEq, Repr

/-- The framer examines ABORT_REQ before the probe step and, in RUN, at each index that is a multiple of CANCEL_N (R166). -/
def abortDue (s : State) : Bool :=
  match s.frm.fstate with
  | .probe => s.frm.abortReq
  | .run => s.frm.abortReq && decide (s.frm.pktCount.toNat % s.params.cancelN = 0)
  | _ => false

/-- The probe step waits for min(N, PROBE_WINDOW) bytes (R151; log 4). -/
def probeReady (s : State) : Bool :=
  s.ports.streamEnd || decide (s.cfg.probeWindow.toNat ≤ s.ports.stream.length)

/-- The bytes of the next unit have arrived: POS + STRIDE <= N (R151, R180). -/
def unitReady (s : State) : Bool :=
  decide (s.frm.pos.toNat + s.frm.stride.toNat ≤ s.ports.stream.length)

/-- R151, with the waiting of its last sentence and of R76 and R327 (log 5). -/
def enabledStep (s : State) : FrmStep :=
  match s.frm.fstate with
  | .idle | .done | .fail | .aborted => .idle
  | .probe =>
    if s.ports.recPort ≠ [] then .waiting
    else if abortDue s then .abort
    else if probeReady s then .probe
    else .waiting
  | .run =>
    if s.ports.recPort ≠ [] then .waiting
    else if abortDue s then .abort
    else if unitReady s then .packet
    else if s.ports.streamEnd then .finish
    else .waiting

/-- `passes(s, l)` of R155: R is PROBE_MIN_RUN, V the number of visible bytes. R156 (b) says more than R155 gives, a failure
of every stream shorter than R units; the model follows R155 (log 28). -/
def passes (stream : List Byte) (runLen visible : Nat) (r : StrideRow) : Bool :=
  (List.range runLen).all fun i =>
    decide (rowLead r + i * r.stride.toNat < visible) && stream.getD (rowLead r + i * r.stride.toNat) 0 == syncByte

/-- V = min(N, PROBE_WINDOW) (R155). -/
def visibleBytes (s : State) : Nat := min s.ports.stream.length s.cfg.probeWindow.toNat

/-- The stride the probe step decides: forced (R154), or the first candidate that passes (R155). -/
def probeChoice (s : State) : Option StrideRow :=
  match forcedRow s.cfg.strideMode with
  | some r => some r
  | none => strideTable.find? (passes s.ports.stream s.cfg.probeMinRun.toNat (visibleBytes s))

/-- Lock (R157). -/
def lockStride (r : StrideRow) (s : State) : State :=
  { s with frm.stride := r.stride, frm.lead := r.lead, frm.trail := r.trail, frm.fstate := .run }

/-- The probe step: lock (R157) or the framing error (R158). -/
def probeStep (s : State) : State :=
  match probeChoice s with
  | some r => lockStride r s
  | none => raiseEvent .framingError s

/-- The end step (R160). -/
def endStep (s : State) : State := { s with frm.fstate := .done }

/-- The abort step (R167). -/
def abortStep (s : State) : State := { s with frm.fstate := .aborted }

/-- The header word of the unit at POS (R182); only looked at when the unit has arrived. -/
def nextHeader (s : State) : Word32 := headerWord ((fetchCore s).getD [])

end Sys2Proof.Machine
end

