-- ==== Sys2Proof/Machine/Regs.lean ====
section
/-! DEFINITION. The register map (R36 to R47): what a read of each slot returns, what a write of each slot other than CMD
does. -/

namespace Sys2Proof.Machine

open Sys2Proof

/-- The address of a slot (R36). -/
def slotAddr : Slot → BitVec 12
  | .cmd => 0x000
  | .resp => 0x008
  | .cfg => 0x010
  | .frmStatus => 0x018
  | .pktCount => 0x020
  | .syncErrors => 0x028
  | .teiCount => 0x030
  | .ccErrors => 0x038
  | .dupCount => 0x040
  | .afErrors => 0x048
  | .roleErrors => 0x050
  | .pidCount => 0x058
  | .streamPos => 0x060
  | .crcReg => 0x068
  | .crcStatus => 0x070
  | .crcErrors => 0x078
  | .bcPos => 0x080
  | .bcLen => 0x088
  | .bcStatus => 0x090
  | .pidSel => 0x098
  | .pidInfo => 0x0A0
  | .pidPktCnt => 0x0A8
  | .pidDupCnt => 0x0B0
  | .pidCcErrCnt => 0x0B8
  | .pidAfErrCnt => 0x0C0
  | .pidRoleErrCnt => 0x0C8
  | .bcCap => 0x0D0
  | .cancelInterval => 0x0D8

/-- The 28 slots in address order. -/
def allSlots : List Slot :=
  [.cmd, .resp, .cfg, .frmStatus, .pktCount, .syncErrors, .teiCount, .ccErrors, .dupCount, .afErrors, .roleErrors,
    .pidCount, .streamPos, .crcReg] ++
  [.crcStatus, .crcErrors, .bcPos, .bcLen, .bcStatus, .pidSel, .pidInfo, .pidPktCnt, .pidDupCnt, .pidCcErrCnt,
    .pidAfErrCnt, .pidRoleErrCnt, .bcCap, .cancelInterval]

/-- The slot an access acts on: the low three address bits are ignored (R83); none at 0x0E0 and above (R37). -/
def slotAt (a : BitVec 12) : Option Slot := allSlots.find? fun sl => slotAddr sl == a &&& 0xFF8

/-! ## The packed registers -/

/-- RESP (R40): VALUE 31:0, CAUSE 35:32, ERR 36, OPC 47:40. -/
def respWord (r : Resp) : Word64 := 0#16 ++ r.opc ++ 0#3 ++ flag r.err ++ causeCode r.cause ++ r.value

/-- CFG (R41): PROBE_MIN_RUN 7:0, PROBE_WINDOW 23:8, STRIDE_MODE 26:24. -/
def cfgWord (c : Cfg) : Word64 := 0#37 ++ c.strideMode ++ c.probeWindow ++ c.probeMinRun

/-- FRM_STATUS (R42): FSTATE 2:0, ABORT_REQ 3, STRIDE 15:8, LEAD 16, TRAIL 17. -/
def frmStatusWord (f : Framer) : Word64 :=
  0#46 ++ flag f.trail ++ flag f.lead ++ f.stride ++ 0#4 ++ flag f.abortReq ++ fstateCode f.fstate

/-- BC_STATUS (R45): ERR_STICKY 0, LAST_CAUSE 4:1. -/
def bcStatusWord (b : BitCursor) : Word64 := 0#59 ++ causeCode b.lastCause ++ flag b.errSticky

/-- PID_INFO (R36, R46): valid 0, role 2:1, last_cc 6:3, has_cc 7, dup_seen 8. -/
def pidInfoWord (x : PidRec) : Word64 :=
  0#55 ++ flag x.dupSeen ++ flag x.hasCc ++ x.lastCc ++ roleCode x.role ++ flag x.valid

/-! ## Reads -/

/-- What a read of a slot returns (R36, R39 to R47). The natural numbers BITPOS, BUF_LEN, BC_BUF_BYTES and CANCEL_N (to which
R4 gives no upper bound) are cut to the 64 bits of the slot, a choice of the model (log 19). -/
def readSlot (s : State) : Slot → Word64
  | .cmd => 0
  | .resp => respWord s.resp
  | .cfg => cfgWord s.cfg
  | .frmStatus => frmStatusWord s.frm
  | .pktCount => s.frm.pktCount
  | .syncErrors => s.frm.syncErrors
  | .teiCount => s.frm.teiCount
  | .ccErrors => s.frm.ccErrors
  | .dupCount => s.frm.dupCount
  | .afErrors => s.frm.afErrors
  | .roleErrors => s.frm.roleErrors
  | .pidCount => s.frm.pidCount
  | .streamPos => s.frm.pos
  | .crcReg => s.crc.reg.setWidth 64
  | .crcStatus => (flag s.crc.matched).setWidth 64
  | .crcErrors => s.crc.errors
  | .bcPos => BitVec.ofNat 64 s.bc.bitPos
  | .bcLen => BitVec.ofNat 64 s.bc.bufLen
  | .bcStatus => bcStatusWord s.bc
  | .pidSel => s.pidSel.setWidth 64
  | .pidInfo => pidInfoWord s.pidWin
  | .pidPktCnt => s.pidWin.pktCnt
  | .pidDupCnt => s.pidWin.dupCnt
  | .pidCcErrCnt => s.pidWin.ccErrCnt
  | .pidAfErrCnt => s.pidWin.afErrCnt
  | .pidRoleErrCnt => s.pidWin.roleErrCnt
  | .bcCap => BitVec.ofNat 64 s.params.bcBufBytes
  | .cancelInterval => BitVec.ofNat 64 s.params.cancelN

/-- A register read at any address: 0 where there is no slot (R37). -/
def regRead (s : State) (a : BitVec 12) : Word64 :=
  match slotAt a with
  | some sl => readSlot s sl
  | none => 0

/-! ## Writes -/

/-- A write of CFG is applied field by field; an illegal value keeps the old one (R41). -/
def cfgMerge (c : Cfg) (v : Word64) : Cfg :=
  { probeMinRun := if v.extractLsb' 0 8 = 0 then c.probeMinRun else v.extractLsb' 0 8
    probeWindow := if v.extractLsb' 8 16 = 0 then c.probeWindow else v.extractLsb' 8 16
    strideMode := if 4 < (v.extractLsb' 24 3).toNat then c.strideMode else v.extractLsb' 24 3 }

/-- CFG is writable only in IDLE (R41). -/
def writeCfg (v : Word64) (s : State) : State :=
  if s.frm.fstate = .idle then { s with cfg := cfgMerge s.cfg v } else s

/-- BC_STATUS is write-1-to-clear through bit 0 (R45). -/
def writeBcStatus (v : Word64) (s : State) : State :=
  if v.getLsbD 0 then { s with bc.errSticky := false, bc.lastCause := .none } else s

/-- PID_SEL takes the snapshot (R46). -/
def writePidSel (v : Word64) (s : State) : State :=
  { s with pidSel := v.extractLsb' 0 13, pidWin := pidRead s (v.extractLsb' 0 13) }

/-- A write of a slot other than CMD: read-only slots ignore it (R36, R37). -/
def writeSlot (sl : Slot) (v : Word64) (s : State) : State :=
  match sl with
  | .cfg => writeCfg v s
  | .bcStatus => writeBcStatus v s
  | .pidSel => writePidSel v s
  | .cmd | .resp | .frmStatus | .pktCount | .syncErrors | .teiCount | .ccErrors => s
  | .dupCount | .afErrors | .roleErrors | .pidCount | .streamPos | .crcReg | .crcStatus => s
  | .crcErrors | .bcPos | .bcLen | .pidInfo | .pidPktCnt | .pidDupCnt | .pidCcErrCnt => s
  | .pidAfErrCnt | .pidRoleErrCnt | .bcCap | .cancelInterval => s

end Sys2Proof.Machine
end

