-- ==== Sys2Proof/Machine/Agents.lean ====
section
/-! DEFINITION. The agents of R312: one move of the host, of the framer, of the stream source and of the record sink, and
how a word is placed where the next step fetches it. -/

namespace Sys2Proof.Machine

open Sys2Proof

/-! ## The host -/

/-- A command word written to CMD (R39, R92): a legal one is executed to completion, an illegal one changes RESP only
(R120, R293). -/
def runCommand (w : Word32) (s : State) : Out :=
  match decodeCmd w with
  | .ok i => exec i s
  | .error _ => .next (respondErr (cwOpc w) .illegalCmd s)

/-- One register write (R36, R37, R39): bits 63:32 of a CMD write are ignored. -/
def hostWrite (a : BitVec 12) (v : Word64) (s : State) : Out :=
  match slotAt a with
  | some .cmd => runCommand (v.extractLsb' 0 32) s
  | some sl => .next (writeSlot sl v s)
  | none => .next s

/-- One access of the host (R91, R320). -/
def hostAccess (a : Access) (s : State) : Out :=
  match a with
  | .read r => .next { s with ports.rdata := regRead s r }
  | .write r v => hostWrite r v s
  | .reset => .next (hardReset s)

/-! ## The framer -/

/-- One move of the framer: the step R151 enables, or none. -/
def framerStep (s : State) : Out :=
  match enabledStep s with
  | .idle => .next s
  | .waiting => .next s
  | .probe => .next (probeStep s)
  | .packet => exec (decodeHeader (nextHeader s)) s
  | .finish => .next (endStep s)
  | .abort => .next (abortStep s)

/-! ## Who moves -/

/-- One move by the agent whose turn it is (R91). -/
def takeTurn (t : Turn) (s : State) : Out :=
  match t with
  | .host a => hostAccess a s
  | .framer => framerStep s
  | .source n => .next (sourceStep n s)
  | .sink n => .next (sinkStep n s)
  | .present bytes ends => .next (presentStep bytes ends s)

/-- With no turn prescribed everything runs freely (R340): the sink accepts what is at the port; else the framer takes an
enabled step; else the source hands over what it has (log 1). -/
def freeRun (s : State) : Out :=
  if s.ports.recPort ≠ [] then .next (sinkStep s.ports.recPort.length s)
  else
    match enabledStep s with
    | .idle | .waiting => .next (sourceStep s.ports.input.length s)
    | .probe | .packet | .finish | .abort => framerStep s

/-! ## Placing a word -/

/-- The four bytes of a header word in stream order (R111). -/
def headerBytes (w : Word32) : List Byte :=
  [w.extractLsb' 24 8, w.extractLsb' 16 8, w.extractLsb' 8 8, w.extractLsb' 0 8]

/-- A command word becomes the host's next access, a write to CMD. -/
def placeCommand (w : Word32) (s : State) : State :=
  { s with ports.turns := .host (.write (slotAddr .cmd) (w.setWidth 64)) :: s.ports.turns }

/-- A header word becomes the first four bytes of the unit at POS, at stride 188, in RUN, with no abort requested, nothing
at the record output, and the framer's turn next. -/
def placeUnit (w : Word32) (s : State) : State :=
  { s with
    frm.fstate := .run, frm.stride := 188, frm.lead := false, frm.trail := false, frm.abortReq := false
    ports.stream := (s.ports.stream ++ List.replicate (s.frm.pos.toNat - s.ports.stream.length) 0).take s.frm.pos.toNat
      ++ headerBytes w ++ List.replicate 184 0
    ports.recPort := []
    ports.turns := .framer :: s.ports.turns }

/-- The reading of `decodeTableWord`: a word that matches a command row is placed as a command, any other as a unit. -/
def placeWord (w : Word32) (s : State) : State :=
  match decodeCmd w with
  | .ok _ => placeCommand w s
  | .error _ => placeUnit w s

end Sys2Proof.Machine
end

