-- ==== Sys2Proof/Machine/Step.lean ====
section
/-! DEFINITION. One step: the agent whose turn it is moves (R91). -/

namespace Sys2Proof.Machine

open Sys2Proof

/-- The turn is taken from the list before the agent moves. -/
def dropTurn (s : State) : State := { s with ports.turns := s.ports.turns.tail }

/-- One step of the machine. -/
def step (s : State) : Host.Outcome State Fault Refusal :=
  match s.ports.turns with
  | [] => freeRun s
  | t :: _ => takeTurn t (dropTurn s)

/-- The state in which the very next step fetches and runs the table word `w` (log 12). -/
def State.withFetchWord (s : State) (_nbits w : Nat) : State := placeWord (BitVec.ofNat 32 w) s

end Sys2Proof.Machine
end

