-- ==== Sys2Proof/Safety.lean ====
section
/-! DEFINITION. The words the claims are stated in: the opcode table's masks, what a response is, what stays unchanged, the
unit a packet form runs on, and the invariants of the machine. -/

namespace Sys2Proof.Machine

open Sys2Proof

/-! ## The opcode table, as the spec prints it -/

/-- A mask and a match of 30_encoding.md R113 and R118. -/
structure TableRow where
  mask : Word32
  bits : Word32
  deriving DecidableEq, Repr

/-- A word selects a row when `(w and mask) = match` (R113, R118). -/
def TableRow.selects (r : TableRow) (w : Word32) : Prop := w &&& r.mask = r.bits

/-- The row of each instruction (R113, R118). -/
def tableRow : Instr → TableRow
  | .sysReset => ⟨0xFFFFFFFF, 0x01000000⟩
  | .frmStart => ⟨0xFFFFFFFF, 0x10000000⟩
  | .frmAbort => ⟨0xFFFFFFFF, 0x11000000⟩
  | .crcInit => ⟨0xFFFFFFFF, 0x20000000⟩
  | .crcByte _ => ⟨0xFFFFFF00, 0x21000000⟩
  | .crcCheck => ⟨0xFFFFFFFF, 0x22000000⟩
  | .bcClear => ⟨0xFFFFFFFF, 0x30000000⟩
  | .bcPush _ => ⟨0xFFFFFF00, 0x31000000⟩
  | .bcRdu _ => ⟨0xFFFF0000, 0x32000000⟩
  | .bcRdue => ⟨0xFFFFFFFF, 0x33000000⟩
  | .bcRdse => ⟨0xFFFFFFFF, 0x34000000⟩
  | .bcAlign => ⟨0xFFFFFFFF, 0x35000000⟩
  | .bcRem => ⟨0xFFFFFFFF, 0x36000000⟩
  | .tspTei _ _ => ⟨0xFF800000, 0x47800000⟩
  | .tspRsv _ => ⟨0xFF800030, 0x47000000⟩
  | .tspPay _ => ⟨0xFF800030, 0x47000010⟩
  | .tspAf _ => ⟨0xFF800030, 0x47000020⟩
  | .tspAfpay _ => ⟨0xFF800030, 0x47000030⟩
  | .tspNosync _ => ⟨0x00000000, 0x00000000⟩

/-- The thirteen command rows of R118. -/
def cmdRows : List TableRow :=
  [.sysReset, .frmStart, .frmAbort, .crcInit, .crcByte 0, .crcCheck, .bcClear, .bcPush 0, .bcRdu 0, .bcRdue, .bcRdse,
    .bcAlign, .bcRem].map tableRow

/-! ## Units and frames -/

/-- The commands of the CRC unit. -/
def isCrcCmd : Instr → Bool
  | .crcInit | .crcByte _ | .crcCheck => true
  | .sysReset | .frmStart | .frmAbort => false
  | .bcClear | .bcPush _ | .bcRdu _ | .bcRdue | .bcRdse | .bcAlign | .bcRem => false
  | .tspTei _ _ | .tspRsv _ | .tspPay _ | .tspAf _ | .tspAfpay _ | .tspNosync _ => false

/-- The commands of the bit cursor. -/
def isBcCmd : Instr → Bool
  | .bcClear | .bcPush _ | .bcRdu _ | .bcRdue | .bcRdse | .bcAlign | .bcRem => true
  | .sysReset | .frmStart | .frmAbort => false
  | .crcInit | .crcByte _ | .crcCheck => false
  | .tspTei _ _ | .tspRsv _ | .tspPay _ | .tspAf _ | .tspAfpay _ | .tspNosync _ => false

/-- RESP after a command (R40): OPC, CAUSE, VALUE, and ERR = 1 exactly when CAUSE is not NONE. -/
def RespIs (t : State) (opc : BitVec 8) (cause : Cause) (value : Word32) : Prop :=
  t.resp.opc = opc ∧ t.resp.cause = cause ∧ t.resp.value = value ∧ (t.resp.err = true ↔ cause ≠ .none)

/-- Every byte of the three memories reads as before. -/
def MemSame (s t : State) : Prop :=
  (∀ a, bufRead t a = bufRead s a) ∧ (∀ pid, lastRead t pid = lastRead s pid) ∧ t.ports.stream = s.ports.stream

/-- The host's registers other than RESP, and the static parameters, are unchanged. -/
def HostRegsSame (s t : State) : Prop :=
  t.cfg = s.cfg ∧ t.pidSel = s.pidSel ∧ t.pidWin = s.pidWin ∧ t.params = s.params

/-- Nothing but RESP changes. -/
def OnlyResp (s t : State) : Prop := t = { s with resp := t.resp }

/-- Nothing but the CRC unit and RESP changes (R93). -/
def OnlyCrc (s t : State) : Prop :=
  t.frm = s.frm ∧ t.bc = s.bc ∧ t.ports = s.ports ∧ HostRegsSame s t ∧ MemSame s t

/-- Nothing but the bit cursor and RESP changes (R93). -/
def OnlyBc (s t : State) : Prop :=
  t.frm = s.frm ∧ t.crc = s.crc ∧ t.ports = s.ports ∧ HostRegsSame s t

/-- BUF, BUF_LEN, BITPOS are unchanged. -/
def CursorSame (s t : State) : Prop :=
  t.bc.buf = s.bc.buf ∧ t.bc.bufLen = s.bc.bufLen ∧ t.bc.bitPos = s.bc.bitPos ∧ MemSame s t

/-- ERR_STICKY and LAST_CAUSE are unchanged. -/
def StickySame (s t : State) : Prop := t.bc.errSticky = s.bc.errSticky ∧ t.bc.lastCause = s.bc.lastCause

/-- A bit-cursor command that failed with cause `c` (R250): the sticky pair and RESP, and nothing else. -/
def BcFailed (s t : State) (opc : BitVec 8) (c : Cause) : Prop :=
  RespIs t opc c 0 ∧ t.bc.errSticky = true ∧ t.bc.lastCause = c ∧ CursorSame s t ∧ OnlyBc s t

/-- A bit-cursor command that succeeded with this value and moved BITPOS by `width` bits (R250). -/
def BcRead (s t : State) (opc : BitVec 8) (value : Word32) (width : Nat) : Prop :=
  RespIs t opc .none value ∧ t.bc.bitPos = s.bc.bitPos + width ∧ t.bc.buf = s.bc.buf ∧ t.bc.bufLen = s.bc.bufLen ∧
  MemSame s t ∧ StickySame s t ∧ OnlyBc s t

/-- The whole state of R49. -/
def AtReset (t : State) : Prop :=
  t.frm.fstate = .idle ∧ t.frm.stride = 0 ∧ t.frm.lead = false ∧ t.frm.trail = false ∧ t.frm.pos = 0 ∧
  t.frm.abortReq = false ∧ t.frm.pktCount = 0 ∧ t.frm.syncErrors = 0 ∧ t.frm.teiCount = 0 ∧ t.frm.ccErrors = 0 ∧
  t.frm.dupCount = 0 ∧ t.frm.afErrors = 0 ∧ t.frm.roleErrors = 0 ∧ t.frm.pidCount = 0 ∧ t.crc.errors = 0 ∧
  (∀ pid, pidRead t pid = PidRec.reset) ∧ t.frm.out = [] ∧ cfgWord t.cfg = 0x0000000000034004 ∧
  t.crc.reg = 0xFFFFFFFF ∧ t.crc.matched = false ∧ t.bc.bufLen = 0 ∧ t.bc.bitPos = 0 ∧ t.bc.errSticky = false ∧
  t.bc.lastCause = .none ∧ t.pidSel = 0 ∧ t.pidWin = PidRec.reset

/-! ## The unit a packet form runs on -/

/-- `p` is the core of the unit at POS (R110, R180): the unit has arrived, and `p` is its 188 bytes after the lead. -/
def CoreAt (s : State) (p : List Byte) : Prop :=
  s.frm.pos.toNat + s.frm.stride.toNat ≤ s.ports.stream.length ∧
  4 * s.frm.lead.toNat + 188 ≤ s.frm.stride.toNat ∧ p.length = 188 ∧
  ∀ i, i < 188 → p[i]? = s.ports.stream[s.frm.pos.toNat + 4 * s.frm.lead.toNat + i]?

/-- The routed form a value of afc selects (R113 rows 2 to 5). -/
def routedForm (h : Hdr) (afc : BitVec 2) : Instr :=
  if afc = 0 then .tspRsv h else if afc = 1 then .tspPay h else if afc = 2 then .tspAf h else .tspAfpay h

/-- The packet form `i` runs on `s`, ends in `t` and appends the record `r`. -/
def RunsTo (i : Instr) (s t : State) (r : Record) : Prop :=
  exec i s = .next t ∧ t.frm.out = s.frm.out ++ [r]

/-- What no packet step touches: the CRC unit, the bit cursor, RESP and the other host registers, the stream and what the
ports hold besides the record output (R93). -/
def OnlyFramer (s t : State) : Prop :=
  t.crc = s.crc ∧ t.bc = s.bc ∧ t.resp = s.resp ∧ HostRegsSame s t ∧
  t.ports = { s.ports with recPort := t.ports.recPort } ∧
  t.frm.fstate = s.frm.fstate ∧ t.frm.stride = s.frm.stride ∧ t.frm.lead = s.frm.lead ∧ t.frm.trail = s.frm.trail ∧
  t.frm.abortReq = s.frm.abortReq ∧ ∀ a, bufRead t a = bufRead s a

/-- No record of PIDTAB, no store of LASTPKT and no counter of routed packets changes (R183, R185). -/
def NoPidTouched (s t : State) : Prop :=
  (∀ pid, pidRead t pid = pidRead s pid) ∧ (∀ pid, lastRead t pid = lastRead s pid) ∧
  t.frm.pidCount = s.frm.pidCount ∧ t.frm.afErrors = s.frm.afErrors ∧ t.frm.ccErrors = s.frm.ccErrors ∧
  t.frm.dupCount = s.frm.dupCount ∧ t.frm.roleErrors = s.frm.roleErrors

/-- The header signals that carry a record (R126), field by field, with the numbers of kind and role. -/
def SignalsOf (r : Record) (h : RecHeader) : Prop :=
  (r.kind = .nosync → h.kind = 0) ∧ (r.kind = .tei → h.kind = 1) ∧ (r.kind = .routed → h.kind = 2) ∧
  (r.role = .unclassified → h.role = 0) ∧ (r.role = .psi → h.role = 1) ∧ (r.role = .pes → h.role = 2) ∧
  h.index = r.index ∧ h.offset = r.offset ∧ h.tei = r.tei ∧ h.pusi = r.pusi ∧ h.prio = r.prio ∧ h.pid = r.pid ∧
  h.tsc = r.tsc ∧ h.afc = r.afc ∧ h.cc = r.cc ∧ h.afLen = r.afLen ∧ h.afFlags = r.afFlags ∧ h.di = r.di ∧
  h.rai = r.rai ∧ h.pcrValid = r.pcrValid ∧ h.pcr = r.pcr ∧ h.opcrValid = r.opcrValid ∧ h.opcr = r.opcr ∧
  h.afErr = r.afErr ∧ h.dup = r.dup ∧ h.ccErr = r.ccErr ∧ h.roleMismatch = r.roleMismatch ∧
  h.payValid = r.payValid ∧ h.payOff = r.payOff ∧ h.payLen = r.payLen

/-- The transfers of one record (R76): the header, then, only if pay_valid = 1 and pay_len > 0, the payload bytes in order,
with rec_plast on the last. -/
def BeatsOf (r : Record) (bs : List Beat) : Prop :=
  ∃ h ds, bs = .header h :: ds ∧ SignalsOf r h ∧
    (r.payValid = true ∧ r.payLen ≠ 0 → ds.length = r.payload.length ∧
      ∀ j b, r.payload[j]? = some b → ds[j]? = some (Beat.data b (decide (j + 1 = r.payload.length)))) ∧
    (¬ (r.payValid = true ∧ r.payLen ≠ 0) → ds = [])

/-- The 42-bit clock reference of the six bytes `q 0 .. q 5`, by the shifts of R115. -/
def clockRefWord (q : Nat → Byte) : BitVec 42 :=
  let base : BitVec 33 :=
    ((q 0).setWidth 33 <<< 25) ||| ((q 1).setWidth 33 <<< 17) ||| ((q 2).setWidth 33 <<< 9) |||
      ((q 3).setWidth 33 <<< 1) ||| ((q 4).setWidth 33 >>> 7)
  let ext : BitVec 9 := (((q 4).setWidth 9 &&& 1) <<< 8) ||| (q 5).setWidth 9
  base ++ ext

/-! ## Sequences of moves -/

/-- The command a move of the host executes, if it is a legal write to CMD (R39, R119). -/
def turnCmd : Turn → Option Instr
  | .host (.write a v) =>
    if slotAt a = some .cmd then (decodeCmd (v.extractLsb' 0 32)).toOption else none
  | .host (.read _) | .host .reset => none
  | .framer | .source _ | .sink _ | .present _ _ => none

/-- The moves of a list, one after another, up to the first that stops. -/
def runTurns : List Turn → State → Out
  | [], s => .next s
  | t :: ts, s =>
    match takeTurn t s with
    | .next s' => runTurns ts s'
    | .fault f => .fault f
    | .refused r => .refused r

/-- The bytes the CRC.BYTE commands of a list of moves feed, in order (R234). -/
def fedBytes (ts : List Turn) : List Byte :=
  ts.filterMap fun t =>
    match turnCmd t with
    | some (.crcByte b) => some b
    | _ => none

/-- A move that starts or checks no span and is no reset (R234). -/
def keepsSpan (t : Turn) : Prop :=
  t ≠ .host .reset ∧ turnCmd t ≠ some .crcInit ∧ turnCmd t ≠ some .crcCheck ∧ turnCmd t ≠ some .sysReset

/-- v[31:24], v[23:16], v[15:8], v[7:0] (R235). -/
def bigEndian (v : Word32) : List Byte :=
  [v.extractLsb' 24 8, v.extractLsb' 16 8, v.extractLsb' 8 8, v.extractLsb' 0 8]

/-- A candidate of stride `st` and lead `ld` passes the probe (R155): the sync byte stands at R units, all visible. -/
def ProbePasses (s : State) (st ld : Nat) : Prop :=
  ∀ i, i < s.cfg.probeMinRun.toNat →
    ld + i * st < min s.ports.stream.length s.cfg.probeWindow.toNat ∧ s.ports.stream[ld + i * st]? = some 0x47

/-- The probe step answers RUN with this stride (R157). -/
def Locks (s : State) (st : BitVec 8) (ld tr : Bool) : Prop :=
  framerStep s = .next { s with frm.fstate := .run, frm.stride := st, frm.lead := ld, frm.trail := tr }

/-- An abort is due (R151, R166). -/
def AbortDue (s : State) : Prop :=
  s.frm.abortReq = true ∧
    (s.frm.fstate = .probe ∨ s.frm.fstate = .run ∧ s.frm.pktCount.toNat % s.params.cancelN = 0)

/-- The move about to be made resets the block. -/
def ResetIsNext (s : State) : Prop :=
  ∃ t ts, s.ports.turns = t :: ts ∧ (t = .host .reset ∨ turnCmd t = some .sysReset)

/-! ## Invariants -/

/-- R22: STRIDE, LEAD and TRAIL agree with each other and with FSTATE (a run aborted in PROBE has no stride yet, R150). -/
def StrideOk (s : State) : Prop :=
  (s.frm.lead = true ↔ s.frm.stride = 192 ∨ s.frm.stride = 208) ∧
  (s.frm.trail = true ↔ s.frm.stride = 204 ∨ s.frm.stride = 208) ∧
  (s.frm.fstate = .idle ∨ s.frm.fstate = .probe ∨ s.frm.fstate = .fail → s.frm.stride = 0) ∧
  (s.frm.fstate = .run ∨ s.frm.fstate = .done → s.frm.stride ∈ [188, 192, 204, 208]) ∧
  (s.frm.fstate = .aborted → s.frm.stride ∈ [0, 188, 192, 204, 208])

/-- R34: 0 <= BITPOS <= 8 * BUF_LEN and BUF_LEN <= BC_BUF_BYTES. -/
def CursorOk (s : State) : Prop := s.bc.bitPos ≤ 8 * s.bc.bufLen ∧ s.bc.bufLen ≤ s.params.bcBufBytes

/-- R40: ERR = 1 exactly when CAUSE != 0, and VALUE = 0 after a failure. -/
def RespOk (s : State) : Prop :=
  (s.resp.err = true ↔ s.resp.cause ≠ .none) ∧ (s.resp.err = true → s.resp.value = 0)

/-- R41: every field of CFG holds a legal value. -/
def CfgOk (s : State) : Prop :=
  1 ≤ s.cfg.probeMinRun.toNat ∧ 1 ≤ s.cfg.probeWindow.toNat ∧ s.cfg.strideMode.toNat ≤ 4

/-- The three stores are in canonical form; PIDTAB and LASTPKT list PIDs only, and every packet remembered has 188 bytes. -/
def StoresOk (s : State) : Prop :=
  SMap.wf PidRec.reset s.frm.pidtab ∧ SMap.wf unwrittenCore s.frm.lastpkt ∧ Memory.wf s.bc.buf ∧
  (∀ e ∈ s.frm.pidtab, e.1 < 8192) ∧ (∀ e ∈ s.frm.lastpkt, e.1 < 8192 ∧ e.2.length = 188)

/-- R48 (g) and the counter half of (h): a record that does not exist is the reset record, one that exists has a counter. -/
def PidsOk (s : State) : Prop :=
  ∀ pid, ((pidRead s pid).valid = false → pidRead s pid = PidRec.reset) ∧
    ((pidRead s pid).valid = true → (pidRead s pid).hasCc = true)

/-- The sum of a field over all 8192 records, modulo 2^64 (R48). -/
def pidSum (s : State) (f : PidRec → Word64) : Word64 :=
  ((List.range 8192).map fun i => f (SMap.get PidRec.reset s.frm.pidtab i)).sum

/-- R48 (a) to (f), (i) and (j), modulo 2^64, and that no unit is consumed before the stride is locked (R24). -/
def CountsOk (s : State) : Prop :=
  s.frm.pktCount = s.frm.syncErrors + s.frm.teiCount + pidSum s PidRec.pktCnt ∧
  s.frm.ccErrors = pidSum s PidRec.ccErrCnt ∧
  s.frm.dupCount = pidSum s PidRec.dupCnt ∧
  s.frm.afErrors = pidSum s PidRec.afErrCnt ∧
  s.frm.roleErrors = pidSum s PidRec.roleErrCnt ∧
  s.frm.pidCount = pidSum s (fun x => if x.valid then 1 else 0) ∧
  BitVec.ofNat 64 s.frm.out.length = s.frm.pktCount ∧
  s.frm.pos = s.frm.pktCount * s.frm.stride.setWidth 64 ∧
  (s.frm.fstate = .idle ∨ s.frm.fstate = .probe ∨ s.frm.fstate = .fail → s.frm.out = [])

/-- R48 (h) and (k), over the natural numbers: they hold as long as pkt_cnt does not wrap. -/
def RecOk (x : PidRec) : Prop :=
  (x.valid = true → 1 ≤ x.pktCnt.toNat) ∧ x.dupCnt.toNat + x.ccErrCnt.toNat ≤ x.pktCnt.toNat

/-- The records at the record output and those the sink has, together, are the records of OUT in order, and the port is
empty before the first (R76). -/
def PortOk (s : State) : Prop := s.ports.sinkGot ++ s.ports.recPort = s.frm.out.flatMap recordBeats

/-- The unit grid (R24, R25, R170): the framer stands at a whole number of strides inside what has arrived, and a run that is
DONE has consumed every whole unit of the stream. -/
def GridOk (s : State) : Prop :=
  (s.frm.fstate = .idle ∨ s.frm.fstate = .probe ∨ s.frm.fstate = .fail → s.frm.pktCount = 0 ∧ s.frm.pos = 0) ∧
  (s.frm.fstate = .run → s.frm.pos.toNat = s.frm.pktCount.toNat * s.frm.stride.toNat ∧
    s.frm.pos.toNat ≤ s.ports.stream.length) ∧
  (s.frm.fstate = .done → s.ports.streamEnd = true ∧
    s.frm.pktCount.toNat = s.ports.stream.length / s.frm.stride.toNat)

/-- `t` is `s` but for stores LAST[pid] of PIDs that hold no counter yet (R31, U1). -/
def SameButUnreadLast (s t : State) : Prop :=
  t = { s with frm.lastpkt := t.frm.lastpkt } ∧
    ∀ pid, (pidRead s pid).hasCc = true → lastRead t pid = lastRead s pid

/-- `t` is `s` but for bytes of BUF at or above BUF_LEN (R34, U2). -/
def SameButUnreadBuf (s t : State) : Prop :=
  t = { s with bc.buf := t.bc.buf } ∧ ∀ a, a < s.bc.bufLen → bufRead t a = bufRead s a

end Sys2Proof.Machine
end

