-- ==== Sys2Proof/Certificates/Slice0/Obligations.lean ====
section
/-! DEFINITION. The statements for the provers. Each docstring names the rules of spec/ it formalises. -/

open Sys2Proof Sys2Proof.Machine

/-! ## Reset and the framer's commands -/

/-- R49: after the hardware reset and after SYS.RESET (whose RESP is R161's), in every state, every piece of state has the
value of the table; the static parameters are unaffected. -/
def Obligations.HardwareResetGivesResetValues : Prop :=
  AtReset State.reset ∧ regRead State.reset 0x008 = 0 ∧
  ∀ s : State, ∃ t u, hostAccess .reset s = .next t ∧ AtReset t ∧ regRead t 0x008 = 0 ∧ t.params = s.params ∧
    exec .sysReset s = .next u ∧ AtReset u ∧ u.params = s.params

/-- R161: SYS.RESET leaves what the hardware reset leaves, in every FSTATE, except RESP = 0x0000010000000000; received and
not yet consumed bytes and a record not yet transferred are dropped. It cannot fail. -/
def Obligations.SoftResetIsHardwareResetButResp : Prop :=
  ∀ s : State, ∃ t h, exec .sysReset s = .next t ∧ hostAccess .reset s = .next h ∧ t = { h with resp := t.resp } ∧
    AtReset t ∧ regRead t 0x008 = 0x0000010000000000 ∧ regRead t 0x018 = 0 ∧ t.params = s.params ∧
    t.ports.stream = [] ∧ t.ports.recPort = []

/-- R152: FRM.START. What it does to the end mark of the stream (in_empty, R70) is stated by
`SourceAndSinkMovesTransferInOrder`, since the rule does not say it (log 3). -/
def Obligations.FrmStartStartsOnlyFromIdle : Prop :=
  ∀ s : State,
    (s.frm.fstate = .idle → ∃ t, exec .frmStart s = .next t ∧ t.frm = { s.frm with fstate := .probe } ∧
      RespIs t 0x10 .none 0 ∧ regRead t 0x008 = 0x0000100000000000 ∧ t.crc = s.crc ∧ t.bc = s.bc ∧
      HostRegsSame s t ∧ MemSame s t ∧
      t.ports = { s.ports with streamEnd := t.ports.streamEnd, inputEnds := t.ports.inputEnds }) ∧
    (s.frm.fstate ≠ .idle → ∃ t, exec .frmStart s = .next t ∧ RespIs t 0x10 .badState 0 ∧ OnlyResp s t)

/-- R165: FRM.ABORT. -/
def Obligations.FrmAbortRequestsOnlyWhileRunning : Prop :=
  ∀ s : State,
    (s.frm.fstate = .probe ∨ s.frm.fstate = .run → ∃ t, exec .frmAbort s = .next t ∧
      t.frm = { s.frm with abortReq := true } ∧ RespIs t 0x11 .none 0 ∧ regRead t 0x008 = 0x0000110000000000 ∧
      t.crc = s.crc ∧ t.bc = s.bc ∧ t.ports = s.ports ∧ HostRegsSame s t ∧ MemSame s t) ∧
    (s.frm.fstate ≠ .probe ∧ s.frm.fstate ≠ .run → ∃ t, exec .frmAbort s = .next t ∧ RespIs t 0x11 .badState 0 ∧
      OnlyResp s t)

/-- R294: BAD_STATE comes from FRM.START outside IDLE and from FRM.ABORT outside PROBE and RUN, from no other command, and
changes nothing but RESP. -/
def Obligations.BadStateOnlyFromStartAndAbort : Prop :=
  ∀ (i : Instr) (s t : State), i.format = .cw32 → exec i s = .next t →
    (t.resp.cause = .badState ↔
      i = .frmStart ∧ s.frm.fstate ≠ .idle ∨ i = .frmAbort ∧ s.frm.fstate ≠ .probe ∧ s.frm.fstate ≠ .run) ∧
    (t.resp.cause = .badState → t.resp.err = true ∧ t.resp.value = 0 ∧ OnlyResp s t)

/-! ## The CRC unit -/

/-- R231: `crc_step` is eight bit-serial shifts of the register with the byte exclusive-ored onto its top byte, and
`crc_fold` takes the bytes in order. -/
def Obligations.CrcStepIsBitSerial : Prop :=
  (∀ (poly c : Word32) (b : Byte), crcStep poly c b =
    (fun c : Word32 => if c.getLsbD 31 = true then (c <<< 1) ^^^ poly else c <<< 1)^[8]
      (c ^^^ (b.setWidth 32 <<< 24))) ∧
  (∀ (poly c : Word32) (m : List Byte), crcFold poly c m = m.foldl (crcStep poly) c) ∧
  ∀ (poly : Word32) (m : List Byte), crcOf poly m = crcFold poly 0xFFFFFFFF m

/-- R232, R233, R236: CRC.INIT, CRC.BYTE and CRC.CHECK, in every state; CRC.CHECK does not modify the register. -/
def Obligations.CrcCommandsComplete : Prop :=
  ∀ s : State,
    (∃ t, exec .crcInit s = .next t ∧ t.crc = { s.crc with reg := 0xFFFFFFFF } ∧ RespIs t 0x20 .none 0 ∧
      OnlyCrc s t) ∧
    (∀ b : Byte, ∃ t, exec (.crcByte b) s = .next t ∧
      t.crc = { s.crc with reg := crcStep s.params.crcPoly s.crc.reg b } ∧ RespIs t 0x21 .none (b.setWidth 32) ∧
      OnlyCrc s t) ∧
    ∃ t, exec .crcCheck s = .next t ∧ t.crc.reg = s.crc.reg ∧
      (s.crc.reg = 0 → t.crc.matched = true ∧ t.crc.errors = s.crc.errors) ∧
      (s.crc.reg ≠ 0 → t.crc.matched = false ∧ t.crc.errors = s.crc.errors + 1) ∧
      RespIs t 0x22 .none s.crc.reg ∧ OnlyCrc s t

/-- R234: after CRC.INIT, moves of any agent that issue no other CRC.INIT or CRC.CHECK and reset nothing leave CRC_REG at
the code of exactly the bytes fed, whatever is interleaved. A move is a turn of the model's list (log 1). -/
def Obligations.CrcRegisterHoldsCodeOfFedSpan : Prop :=
  ∀ (s s₁ s₂ : State) (l : List Turn), (∀ t ∈ l, keepsSpan t) → exec .crcInit s = .next s₁ →
    runTurns l s₁ = .next s₂ → s₂.crc.reg = crcOf s.params.crcPoly (fedBytes l)

/-- R235: a span that ends with the four bytes of its own code, most significant byte first, leaves the register at zero,
for every polynomial. -/
def Obligations.CrcOfSpanWithItsCodeIsZero : Prop :=
  ∀ (poly : Word32) (m : List Byte), crcOf poly (m ++ bigEndian (crcOf poly m)) = 0

/-- R238: a change of exactly one byte of an accepted span is always detected, for every polynomial whose bit 0 is 1, and
CRC.CHECK then reports the mismatch; the default polynomial is one. -/
def Obligations.CrcDetectsEverySingleByteChange : Prop :=
  Params.default.crcPoly.getLsbD 0 = true ∧
  ∀ (poly : Word32) (pre post : List Byte) (b b' : Byte), poly.getLsbD 0 = true → b ≠ b' →
    crcOf poly (pre ++ b :: post) = 0 →
    crcOf poly (pre ++ b' :: post) ≠ 0 ∧
    ∀ s : State, s.crc.reg = crcOf poly (pre ++ b' :: post) → ∃ t, exec .crcCheck s = .next t ∧
      t.crc.matched = false ∧ t.crc.errors = s.crc.errors + 1

/-- R237, for a polynomial whose bit 0 is 1 (the rule's own ground, that crc_step is a bijection of the register, needs it):
a span is accepted exactly when its last four bytes, big-endian, are the code of what precedes them. -/
def Obligations.CrcAcceptanceIsComparison : Prop :=
  ∀ (poly v : Word32) (m : List Byte), poly.getLsbD 0 = true →
    (crcOf poly (m ++ bigEndian v) = 0 ↔ v = crcOf poly m)

/-! ## The bit cursor -/

/-- R252, R261: BC.CLEAR, and BC.ALIGN, which moves to the next byte boundary and cannot leave the buffer. -/
def Obligations.BcClearAndAlignComplete : Prop :=
  ∀ s : State,
    (∃ t, exec .bcClear s = .next t ∧
      t.bc = { s.bc with bufLen := 0, bitPos := 0, errSticky := false, lastCause := .none } ∧
      RespIs t 0x30 .none 0 ∧ MemSame s t ∧ OnlyBc s t) ∧
    ∃ t, exec .bcAlign s = .next t ∧ t.bc = { s.bc with bitPos := t.bc.bitPos } ∧ t.bc.bitPos % 8 = 0 ∧
      s.bc.bitPos ≤ t.bc.bitPos ∧ t.bc.bitPos < s.bc.bitPos + 8 ∧ (CursorOk s → t.bc.bitPos ≤ 8 * t.bc.bufLen) ∧
      RespIs t 0x35 .none 0 ∧ MemSame s t ∧ OnlyBc s t

/-- R253: BC.PUSH stores one byte at index BUF_LEN, and fails with BC_FULL at capacity. -/
def Obligations.BcPushAppendsOneByte : Prop :=
  ∀ (b : Byte) (s : State),
    (s.bc.bufLen ≠ s.params.bcBufBytes → ∃ t, exec (.bcPush b) s = .next t ∧
      t.bc.bufLen = s.bc.bufLen + 1 ∧ bufRead t s.bc.bufLen = b ∧
      (∀ a, a ≠ s.bc.bufLen → bufRead t a = bufRead s a) ∧ (∀ pid, lastRead t pid = lastRead s pid) ∧
      t.bc.bitPos = s.bc.bitPos ∧ StickySame s t ∧
      RespIs t 0x31 .none (BitVec.ofNat 32 (s.bc.bufLen + 1)) ∧ OnlyBc s t) ∧
    (s.bc.bufLen = s.params.bcBufBytes → ∃ t, exec (.bcPush b) s = .next t ∧ BcFailed s t 0x31 .bcFull)

/-- R251: bit(i), and bits(a, n) as the sum of the rule. -/
def Obligations.BitsAreMostSignificantFirst : Prop :=
  ∀ s : State,
    (∀ i, (bitAt s i).toNat = ((bufRead s (i / 8)).toNat >>> (7 - i % 8)) % 2) ∧
    ∀ a n, bitsVal s a n = ((List.range n).map fun j => (bitAt s (a + j)).toNat * 2 ^ (n - 1 - j)).sum

/-- R255: BC.RDU n; the width test comes first. -/
def Obligations.BcRduReadsOrFails : Prop :=
  ∀ (n : BitVec 16) (s : State),
    (n.toNat < 1 ∨ 32 < n.toNat → ∃ t, exec (.bcRdu n) s = .next t ∧ BcFailed s t 0x32 .bcWidth) ∧
    (1 ≤ n.toNat → n.toNat ≤ 32 → nbits s < s.bc.bitPos + n.toNat →
      ∃ t, exec (.bcRdu n) s = .next t ∧ BcFailed s t 0x32 .bcBounds) ∧
    (1 ≤ n.toNat → n.toNat ≤ 32 → s.bc.bitPos + n.toNat ≤ nbits s →
      ∃ t, exec (.bcRdu n) s = .next t ∧
        BcRead s t 0x32 (BitVec.ofNat 32 (bitsVal s s.bc.bitPos n.toNat)) n.toNat)

/-- R256: the value laws of BC.RDU: (a) the bound, (b) splitting, (c) whole bytes, big-endian. -/
def Obligations.BcRduValueLaws : Prop :=
  (∀ (n : BitVec 16) (s t : State), exec (.bcRdu n) s = .next t → t.resp.err = false →
    t.resp.value.toNat < 2 ^ n.toNat) ∧
  (∀ (n₁ n₂ : BitVec 16) (s t u : State), n₁.toNat + n₂.toNat ≤ 32 →
    exec (.bcRdu n₁) s = .next t → t.resp.err = false → exec (.bcRdu n₂) t = .next u → u.resp.err = false →
    ∃ v, exec (.bcRdu (n₁ + n₂)) s = .next v ∧ v.resp.err = false ∧ v.bc.bitPos = u.bc.bitPos ∧
      v.resp.value.toNat = t.resp.value.toNat * 2 ^ n₂.toNat + u.resp.value.toNat) ∧
  ∀ (s : State) (i : Nat), s.bc.bitPos = 8 * i →
    (i + 1 ≤ s.bc.bufLen → ∃ t, exec (.bcRdu 8) s = .next t ∧ t.resp.value.toNat = (bufRead s i).toNat) ∧
    (i + 2 ≤ s.bc.bufLen → ∃ t, exec (.bcRdu 16) s = .next t ∧
      t.resp.value.toNat = (bufRead s i).toNat * 256 + (bufRead s (i + 1)).toNat) ∧
    (i + 4 ≤ s.bc.bufLen → ∃ t, exec (.bcRdu 32) s = .next t ∧
      t.resp.value = bufRead s i ++ bufRead s (i + 1) ++ bufRead s (i + 2) ++ bufRead s (i + 3))

/-- R258: BC.RDUE on k leading zeros inside the buffer: the value, or BC_BOUNDS where the terminating 1 or the suffix is
missing, or BC_CODE_TOO_LONG on 32 zeros. -/
def Obligations.BcRdueDecodesOrFails : Prop :=
  ∀ s : State,
    (∀ k, k ≤ 31 → (∀ j, j < k → s.bc.bitPos + j < nbits s ∧ bitAt s (s.bc.bitPos + j) = false) →
      (nbits s ≤ s.bc.bitPos + k → ∃ t, exec .bcRdue s = .next t ∧ BcFailed s t 0x33 .bcBounds) ∧
      (s.bc.bitPos + k < nbits s → bitAt s (s.bc.bitPos + k) = true →
        (nbits s < s.bc.bitPos + 2 * k + 1 → ∃ t, exec .bcRdue s = .next t ∧ BcFailed s t 0x33 .bcBounds) ∧
        (s.bc.bitPos + 2 * k + 1 ≤ nbits s → ∃ t, exec .bcRdue s = .next t ∧
          BcRead s t 0x33 (BitVec.ofNat 32 (2 ^ k - 1 + bitsVal s (s.bc.bitPos + k + 1) k)) (2 * k + 1)))) ∧
    ((∀ j, j < 32 → s.bc.bitPos + j < nbits s ∧ bitAt s (s.bc.bitPos + j) = false) →
      ∃ t, exec .bcRdue s = .next t ∧ BcFailed s t 0x33 .bcCodeTooLong)

/-- R259: with m = VALUE and k = floor(log2(m + 1)), BC.RDUE succeeds with m exactly when the next 2k + 1 bits are k zeros
and the binary form of m + 1; it takes 2k + 1 bits, 1 to 63. -/
def Obligations.BcRdueInvertsTheCode : Prop :=
  (∀ s t : State, exec .bcRdue s = .next t → t.resp.err = false →
    t.resp.value.toNat < 2 ^ 32 - 1 ∧
    t.bc.bitPos = s.bc.bitPos + (2 * Nat.log2 (t.resp.value.toNat + 1) + 1) ∧
    2 ^ Nat.log2 (t.resp.value.toNat + 1) - 1 ≤ t.resp.value.toNat ∧
    t.resp.value.toNat ≤ 2 ^ (Nat.log2 (t.resp.value.toNat + 1) + 1) - 2 ∧
    2 * Nat.log2 (t.resp.value.toNat + 1) + 1 ≤ 63) ∧
  ∀ (s : State) (m : Nat), m < 2 ^ 32 - 1 →
    ((∃ t, exec .bcRdue s = .next t ∧ t.resp.err = false ∧ t.resp.value.toNat = m) ↔
      s.bc.bitPos + (2 * Nat.log2 (m + 1) + 1) ≤ nbits s ∧
        bitsVal s s.bc.bitPos (2 * Nat.log2 (m + 1) + 1) = m + 1)

/-- R260: BC.RDSE fails where BC.RDUE fails and as it does, moves BITPOS as it does, and maps its value m to (m + 1) / 2
when m is odd and to -(m / 2) when m is even, in 32-bit two's complement. -/
def Obligations.BcRdseMapsTheUnsignedCode : Prop :=
  ∀ s : State, ∃ u t, exec .bcRdue s = .next u ∧ exec .bcRdse s = .next t ∧ t.bc = u.bc ∧ OnlyBc s t ∧ MemSame s t ∧
    (u.resp.err = true → RespIs t 0x34 u.resp.cause 0) ∧
    (u.resp.err = false → RespIs t 0x34 .none t.resp.value ∧
      (u.resp.value.toNat % 2 = 1 → t.resp.value.toInt = ((u.resp.value.toNat + 1) / 2 : Nat)) ∧
      (u.resp.value.toNat % 2 = 0 → t.resp.value.toInt = -((u.resp.value.toNat / 2 : Nat) : Int)) ∧
      -(2 ^ 31 - 1) ≤ t.resp.value.toInt ∧ t.resp.value.toInt ≤ 2 ^ 31 - 1)

/-- R262: BC.REM answers the bits that remain and changes nothing but RESP; BC.RDU n succeeds exactly when n is at most
that value. -/
def Obligations.BcRemCountsRemainingBits : Prop :=
  ∀ s : State, ∃ t, exec .bcRem s = .next t ∧ RespIs t 0x36 .none t.resp.value ∧ OnlyResp s t ∧ MemSame s t ∧
    (CursorOk s → s.params.Legal →
      t.resp.value.toNat = nbits s - s.bc.bitPos ∧
      ∀ n : BitVec 16, 1 ≤ n.toNat → n.toNat ≤ 32 →
        ((∃ u, exec (.bcRdu n) s = .next u ∧ u.resp.err = false) ↔ n.toNat ≤ t.resp.value.toNat))

/-- R250: every bit-cursor command completes; one that fails changes the sticky pair and RESP and nothing else; one that
succeeds leaves the sticky pair (BC.CLEAR clears it). -/
def Obligations.BcCommandsFailAtomically : Prop :=
  ∀ (i : Instr) (s : State), isBcCmd i = true → ∃ t, exec i s = .next t ∧ OnlyBc s t ∧
    (t.resp.err = true → BcFailed s t t.resp.opc t.resp.cause) ∧
    (t.resp.err = false → t.resp.cause = .none) ∧
    (t.resp.err = false → i ≠ .bcClear → StickySame s t) ∧
    (t.resp.err = false → i = .bcClear → t.bc.errSticky = false ∧ t.bc.lastCause = .none)

/-- R34, R265: no step takes BITPOS outside the loaded bits or BUF_LEN above the capacity, from any state in which they are
inside. -/
def Obligations.StepKeepsCursorInsideBuffer : Prop :=
  ∀ s s' : State, CursorOk s → step s = .next s' → CursorOk s'

/-- R34, R265, U2: bytes of BUF at or above BUF_LEN are never read: with other bytes there, every bit-cursor command that does
not store answers the same and moves the same; and two states that differ only there take the same step, whatever it is, and
still differ only so. So what the model lets such a byte read as (log 8) cannot be observed. -/
def Obligations.CursorReadsOnlyLoadedBytes : Prop :=
  (∀ (i : Instr) (s t : State) (m : Memory), isBcCmd i = true → (∀ b, i ≠ .bcPush b) → CursorOk s →
    (∀ a, a < s.bc.bufLen → m.read a = s.bc.buf.read a) → exec i s = .next t →
    exec i { s with bc.buf := m } = .next { t with bc.buf := m }) ∧
  ∀ s t s' : State, SameButUnreadBuf s t → step s = .next s' →
    ∃ t', step t = .next t' ∧ SameButUnreadBuf s' t'

/-! ## Encodings -/

/-- Decoding the word of every well-formed instruction gives it back, every operand at every value (R111, R113, R117,
R118). -/
def Obligations.DecodeOfEncodeIsIdentity : Prop :=
  ∀ i : Instr, i.wf = true → decode i.format (encode i) = .ok i

/-- Encoding what a word decodes to gives the word back: no bit of a legal word is dropped, and what the decoder answers is
well-formed (R111, R113, R117, R118). -/
def Obligations.EncodeOfDecodeIsIdentity : Prop :=
  ∀ (f : Format) (w : Word32) (i : Instr), decode f w = .ok i → encode i = w ∧ i.wf = true ∧ i.format = f

/-- R118: a word is a command exactly when it selects a row of the table, it then selects the row of its command, and no
word selects two rows. -/
def Obligations.CommandTableDecidesDecoding : Prop :=
  ∀ w : Word32,
    ((∃ i, decodeCmd w = .ok i) ↔ ∃ r ∈ cmdRows, r.selects w) ∧
    (∀ i, decodeCmd w = .ok i → (tableRow i).selects w) ∧
    ∀ r₁ ∈ cmdRows, ∀ r₂ ∈ cmdRows, r₁.selects w → r₂.selects w → r₁ = r₂

/-- R113: the form of a header word, row by row; the first five rows are mutually exclusive and the last takes exactly the
words whose sync byte is not 0x47. -/
def Obligations.FormTableDecidesDecoding : Prop :=
  ∀ w : Word32,
    (w &&& 0xFF800000 = 0x47800000 → ∃ h afc, decodeHeader w = .tspTei h afc) ∧
    (w &&& 0xFF800030 = 0x47000000 → ∃ h, decodeHeader w = .tspRsv h) ∧
    (w &&& 0xFF800030 = 0x47000010 → ∃ h, decodeHeader w = .tspPay h) ∧
    (w &&& 0xFF800030 = 0x47000020 → ∃ h, decodeHeader w = .tspAf h) ∧
    (w &&& 0xFF800030 = 0x47000030 → ∃ h, decodeHeader w = .tspAfpay h) ∧
    (w.extractLsb' 24 8 ≠ 0x47 ↔ decodeHeader w = .tspNosync w)

/-- R111: the fields of the header word of four bytes, at the bits of the table. -/
def Obligations.HeaderFieldsAreWhereTheTableSays : Prop :=
  ∀ (p₀ p₁ p₂ p₃ : Byte) (rest : List Byte),
    headerSync (headerWord (p₀ :: p₁ :: p₂ :: p₃ :: rest)) = p₀ ∧
    headerTei (headerWord (p₀ :: p₁ :: p₂ :: p₃ :: rest)) = p₁.getLsbD 7 ∧
    headerAfc (headerWord (p₀ :: p₁ :: p₂ :: p₃ :: rest)) = p₃.extractLsb' 4 2 ∧
    headerFields (headerWord (p₀ :: p₁ :: p₂ :: p₃ :: rest)) =
      { pusi := p₁.getLsbD 6, prio := p₁.getLsbD 5,
        pid := ((p₁ &&& 0x1F).setWidth 13 <<< 8) ||| p₂.setWidth 13,
        tsc := p₃.extractLsb' 6 2, cc := p₃.extractLsb' 0 4 }

/-- Words written out from 30_encoding.md R111, R117 and R118 decode to what they stand for; the reason the decoder names for
the illegal one is the model's own (log 24). -/
def Obligations.WrittenOutWordsDecode : Prop :=
  decodeCmd 0x01000000 = .ok .sysReset ∧ decodeCmd 0x10000000 = .ok .frmStart ∧
  decodeCmd 0x210000B0 = .ok (.crcByte 0xB0) ∧ decodeCmd 0x32000021 = .ok (.bcRdu 33) ∧
  decodeCmd 0x36000000 = .ok .bcRem ∧ decodeCmd 0x10000001 = .error .nonzeroArgument ∧
  decodeHeader 0x476123DF = .tspPay { pusi := true, prio := true, pid := 0x123, tsc := 3, cc := 15 } ∧
  decodeHeader 0x47810013 = .tspTei { pusi := false, prio := false, pid := 0x100, tsc := 0, cc := 3 } 1 ∧
  decodeHeader 0xC7400010 = .tspNosync 0xC7400010

/-- R293: a command word that decodes to nothing changes RESP and nothing else, in every state. -/
def Obligations.IllegalCommandChangesOnlyResp : Prop :=
  ∀ (s : State) (a : BitVec 12) (v : Word64) (e : Reject), a &&& 0xFF8 = 0 →
    decodeCmd (v.extractLsb' 0 32) = .error e →
    ∃ t, hostAccess (.write a v) s = .next t ∧ RespIs t (v.extractLsb' 24 8) .illegalCmd 0 ∧ OnlyResp s t

/-! ## Steps -/

/-- R39, R83, R92: when the host's turn is a write to CMD of a legal word, the step is the whole execution of the command
bits 31:0 of the written value decode to, on the state in which the turn has been taken. That who moves next stands in the
state as a list of turns is the model's own (log 1). -/
def Obligations.StepRunsTheWrittenCommand : Prop :=
  ∀ (s : State) (a : BitVec 12) (v : Word64) (ts : List Turn) (i : Instr),
    s.ports.turns = .host (.write a v) :: ts → a &&& 0xFF8 = 0 → decodeCmd (v.extractLsb' 0 32) = .ok i →
    step s = exec i { s with ports.turns := ts }

/-- R151, R180, R182: in RUN, with no abort due, the unit at POS arrived and nothing at the record output, the framer's move
is the form the first four bytes of the core decode to; so is a step in which no turn is prescribed. The list of turns, the
bytes that have arrived and the waiting on the record output are the model's reading (log 1, log 2, log 5). -/
def Obligations.StepRunsTheDecodedUnit : Prop :=
  ∀ (s : State) (p : List Byte), s.frm.fstate = .run → ¬ AbortDue s → CoreAt s p → s.ports.recPort = [] →
    (∀ ts, s.ports.turns = .framer :: ts →
      step s = exec (decodeHeader (headerWord p)) { s with ports.turns := ts }) ∧
    (s.ports.turns = [] → step s = exec (decodeHeader (headerWord p)) s)

/-- R151, R160, R167: which step is enabled, given that nothing is at the record output: none in the four other states; the
abort step when one is due; else in PROBE the probe step once its bytes have arrived, and in RUN the end step when fewer
than STRIDE bytes remain and the packet step when a unit does. Nothing moves while a record is at the record output, in PROBE
while the probed bytes and the end mark are missing, and in RUN while a whole unit and the end mark are. What is waited for is the model's reading (log 4, log 5). -/
def Obligations.FramerTakesTheEnabledStep : Prop :=
  ∀ s : State,
    (s.frm.fstate = .idle ∨ s.frm.fstate = .done ∨ s.frm.fstate = .fail ∨ s.frm.fstate = .aborted →
      framerStep s = .next s) ∧
    (s.ports.recPort ≠ [] → framerStep s = .next s) ∧
    (s.ports.recPort = [] →
      (AbortDue s → framerStep s = .next { s with frm.fstate := .aborted }) ∧
      (s.frm.fstate = .run → ¬ AbortDue s → s.ports.streamEnd = true →
        s.ports.stream.length < s.frm.pos.toNat + s.frm.stride.toNat →
        framerStep s = .next { s with frm.fstate := .done }) ∧
      (s.frm.fstate = .run → ¬ AbortDue s → ∀ p, CoreAt s p →
        framerStep s = exec (decodeHeader (headerWord p)) s) ∧
      (s.frm.fstate = .probe → ¬ AbortDue s →
        s.ports.streamEnd = true ∨ s.cfg.probeWindow.toNat ≤ s.ports.stream.length →
        framerStep s = .next (probeStep s)) ∧
      (s.frm.fstate = .run → ¬ AbortDue s → s.ports.streamEnd = false →
        s.ports.stream.length < s.frm.pos.toNat + s.frm.stride.toNat → framerStep s = .next s) ∧
      (s.frm.fstate = .probe → ¬ AbortDue s → s.ports.streamEnd = false →
        s.ports.stream.length < s.cfg.probeWindow.toNat → framerStep s = .next s))

/-- R153, R154, R155, R157, R158: the probe step locks the forced stride, or the first candidate that passes, or fails; it
changes FSTATE, STRIDE, LEAD, TRAIL and nothing else. The premises on the record output and on the bytes that have arrived
are the model's reading of when the step is taken (log 4, log 5). That a stream which ends inside unit PROBE_MIN_RUN, after
its sync byte, locks (565 bytes at stride 188 with the defaults) is the model's choice of R155 against R156 (b) (log 28). -/
def Obligations.ProbeStepLocksOrFails : Prop :=
  ∀ s : State, s.frm.fstate = .probe → s.frm.abortReq = false → s.ports.recPort = [] →
    s.ports.streamEnd = true ∨ s.cfg.probeWindow.toNat ≤ s.ports.stream.length →
    (s.cfg.strideMode = 1 → Locks s 188 false false) ∧
    (s.cfg.strideMode = 2 → Locks s 192 true false) ∧
    (s.cfg.strideMode = 3 → Locks s 204 false true) ∧
    (s.cfg.strideMode = 4 → Locks s 208 true true) ∧
    (s.cfg.strideMode = 0 →
      (ProbePasses s 188 0 → Locks s 188 false false) ∧
      (¬ ProbePasses s 188 0 → ProbePasses s 192 4 → Locks s 192 true false) ∧
      (¬ ProbePasses s 188 0 → ¬ ProbePasses s 192 4 → ProbePasses s 204 0 → Locks s 204 false true) ∧
      (¬ ProbePasses s 188 0 → ¬ ProbePasses s 192 4 → ¬ ProbePasses s 204 0 → ProbePasses s 208 4 →
        Locks s 208 true true) ∧
      (¬ ProbePasses s 188 0 → ¬ ProbePasses s 192 4 → ¬ ProbePasses s 204 0 → ¬ ProbePasses s 208 4 →
        framerStep s = .next { s with frm.fstate := .fail }))

/-- R150: the transitions of FSTATE are those of the table: IDLE is left by FRM.START only, entered by a reset only, and
DONE, FAIL and ABORTED are left by a reset only. -/
def Obligations.StepKeepsToTheTransitionTable : Prop :=
  ∀ s s' : State, step s = .next s' →
    s'.frm.fstate = s.frm.fstate ∨
    (s.frm.fstate = .idle ∧ s'.frm.fstate = .probe ∧
      ∃ t ts, s.ports.turns = t :: ts ∧ turnCmd t = some .frmStart) ∨
    (s.frm.fstate, s'.frm.fstate) ∈
      [(FState.probe, FState.run), (.probe, .fail), (.probe, .aborted), (.run, .done), (.run, .aborted)] ∨
    (s'.frm.fstate = .idle ∧ s'.frm = State.reset.frm ∧ ResetIsNext s)

/-- R29, R30: no step but a reset takes a record of PIDTAB away or changes a role that has been set. -/
def Obligations.StepKeepsRecordsAndRoles : Prop :=
  ∀ s s' : State, step s = .next s' → ¬ ResetIsNext s → ∀ pid,
    ((pidRead s pid).valid = true → (pidRead s' pid).valid = true) ∧
    ((pidRead s pid).role ≠ .unclassified → (pidRead s' pid).role = (pidRead s pid).role)

/-- R309: nothing stops the machine: from every state whose STRIDE, LEAD and TRAIL agree with FSTATE, every step answers a
next state, whatever the stream holds and the host writes. The one fault it excludes is the model's (log 14). -/
def Obligations.NoStreamAndNoCommandStopsTheMachine : Prop :=
  ∀ s : State, StrideOk s → ∃ s', step s = .next s'

/-! ## Invariants -/

/-- R22: STRIDE, LEAD, TRAIL and FSTATE stay in agreement. -/
def Obligations.StepKeepsStrideInAgreement : Prop :=
  ∀ s s' : State, StrideOk s → step s = .next s' → StrideOk s'

/-- R48 (a) to (f), (i), (j), modulo 2^64: every step keeps the global counters equal to the sums over the PID table, the
length of OUT equal to PKT_COUNT, and POS equal to PKT_COUNT * STRIDE. -/
def Obligations.StepKeepsCountersEqualToSums : Prop :=
  ∀ s s' : State, CountsOk s → step s = .next s' → CountsOk s'

/-- R48 (g), (h), (k): a record that does not exist is the reset record, one that exists holds a counter; and as long as no
pkt_cnt wraps, it counts at least one packet and no more events than packets. -/
def Obligations.StepKeepsPidRecordsConsistent : Prop :=
  ∀ s s' : State, step s = .next s' → PidsOk s →
    PidsOk s' ∧
    ((∀ pid, RecOk (pidRead s pid) ∧ (pidRead s pid).pktCnt.toNat + 1 < 2 ^ 64) → ∀ pid, RecOk (pidRead s' pid))

/-- The three stores keep their canonical form, and every packet remembered has 188 bytes (R73, R74). The form is the
model's own (log 7, log 8, log 27). -/
def Obligations.StepKeepsStoresCanonical : Prop :=
  ∀ s s' : State, StoresOk s → step s = .next s' → StoresOk s'

/-- R40, R41: ERR = 1 exactly when CAUSE != 0, a failure has VALUE = 0, and CFG holds legal values. -/
def Obligations.StepKeepsRespAndCfgLegal : Prop :=
  ∀ s s' : State, RespOk s → CfgOk s → step s = .next s' → RespOk s' ∧ CfgOk s'

/-- R76, R126: the transfers of a record are its header signals and then its payload bytes; a packet form run with nothing at
the record output leaves the transfers of its record there; and the output never drops and never reorders: what the sink has
accepted, followed by what is still at the port, is the records of OUT in order. The two histories are the model's own
fields (log 6). -/
def Obligations.StepKeepsRecordOutputInOrder : Prop :=
  (∀ r : Record, BeatsOf r (recordBeats r)) ∧
  (∀ (i : Instr) (s t : State), i.format = .tspH → s.ports.recPort = [] → exec i s = .next t →
    ∃ r, t.frm.out = s.frm.out ++ [r] ∧ t.ports.recPort = recordBeats r) ∧
  ∀ s s' : State, PortOk s → step s = .next s' → PortOk s'

/-- R24, R170: the framer stands on the unit grid, and a run that is DONE has PKT_COUNT = floor(N / STRIDE); for streams of
fewer than 2^64 bytes. The stream that has arrived is a field of the model (log 2). -/
def Obligations.StepKeepsUnitGridAndFloorCount : Prop :=
  ∀ s s' : State, StrideOk s → GridOk s → step s = .next s' → s'.ports.stream.length < 2 ^ 64 → GridOk s'

/-- Every invariant holds after reset; the fields the spec gives no reset value hold the model's (log 2, 6, 7, 8, 9, 10). -/
def Obligations.ResetMeetsEveryInvariant : Prop :=
  StrideOk State.reset ∧ CursorOk State.reset ∧ RespOk State.reset ∧ CfgOk State.reset ∧ StoresOk State.reset ∧
  PidsOk State.reset ∧ CountsOk State.reset ∧ (∀ pid, RecOk (pidRead State.reset pid)) ∧ PortOk State.reset ∧
  GridOk State.reset ∧ State.reset.params.Legal

/-! ## The packet step -/

/-- R180, R181: every packet form, on a unit that has arrived, counts the unit, advances POS by STRIDE, appends exactly one
record with the old PKT_COUNT as index and the old POS as offset, and touches nothing outside the framer but the record
output, of which `StepKeepsRecordOutputInOrder` says what it then holds. -/
def Obligations.EveryFormCountsAdvancesAndEmitsOnce : Prop :=
  ∀ (i : Instr) (s : State) (p : List Byte), i.format = .tspH → CoreAt s p →
    ∃ t r, RunsTo i s t r ∧ t.frm.pktCount = s.frm.pktCount + 1 ∧ t.frm.pos = s.frm.pos + s.frm.stride.setWidth 64 ∧
      r.index = s.frm.pktCount ∧ r.offset = s.frm.pos ∧ OnlyFramer s t

/-- R183, R185: the two forms that are not routed: their counter, their record, and no record of PIDTAB. -/
def Obligations.UnroutedFormsTouchNoPid : Prop :=
  ∀ (s : State) (p : List Byte), CoreAt s p →
    (∀ w, ∃ t, RunsTo (.tspNosync w) s t (Record.blank .nosync s.frm.pktCount s.frm.pos) ∧
      t.frm.syncErrors = s.frm.syncErrors + 1 ∧ t.frm.teiCount = s.frm.teiCount ∧ NoPidTouched s t) ∧
    ∀ h afc, ∃ t, RunsTo (.tspTei h afc) s t
        { Record.blank .tei s.frm.pktCount s.frm.pos with
          tei := true, pusi := h.pusi, prio := h.prio, pid := h.pid, tsc := h.tsc, afc := afc, cc := h.cc } ∧
      t.frm.teiCount = s.frm.teiCount + 1 ∧ t.frm.syncErrors = s.frm.syncErrors ∧ NoPidTouched s t

/-- R187, R188, and the frame of R186 and R97: a routed packet creates its record if there is none, counts itself in it,
reports its header fields, and leaves every other PID's record and store alone. -/
def Obligations.RoutedPacketTouchesItsOwnPid : Prop :=
  ∀ (s : State) (p : List Byte) (h : Hdr) (afc : BitVec 2), CoreAt s p →
    ∃ t r, RunsTo (routedForm h afc) s t r ∧
      (pidRead t h.pid).valid = true ∧ (pidRead t h.pid).pktCnt = (pidRead s h.pid).pktCnt + 1 ∧
      t.frm.pidCount = s.frm.pidCount + (if (pidRead s h.pid).valid then 0 else 1) ∧
      (∀ q, q ≠ h.pid → pidRead t q = pidRead s q ∧ lastRead t q = lastRead s q) ∧
      t.frm.syncErrors = s.frm.syncErrors ∧ t.frm.teiCount = s.frm.teiCount ∧
      r.kind = .routed ∧ r.tei = false ∧ r.pusi = h.pusi ∧ r.prio = h.prio ∧ r.pid = h.pid ∧ r.tsc = h.tsc ∧
      r.afc = afc ∧ r.cc = h.cc

/-- R190 to R195, with the clock references of R115: what the record says of the adaptation field, and the count of an
overrun. -/
def Obligations.AdaptationFieldIsParsed : Prop :=
  ∀ (s : State) (p : List Byte) (h : Hdr) (afc : BitVec 2), CoreAt s p →
    ∃ t r, RunsTo (routedForm h afc) s t r ∧
      (afc.getLsbD 1 = false → r.afLen = 0) ∧
      (afc.getLsbD 1 = true → some r.afLen = p[4]?) ∧
      (r.afErr = true ↔ afc.getLsbD 1 = true ∧ 183 < r.afLen.toNat) ∧
      (r.afErr = true → t.frm.afErrors = s.frm.afErrors + 1 ∧
        (pidRead t h.pid).afErrCnt = (pidRead s h.pid).afErrCnt + 1) ∧
      (r.afErr = false → t.frm.afErrors = s.frm.afErrors ∧
        (pidRead t h.pid).afErrCnt = (pidRead s h.pid).afErrCnt) ∧
      (afc.getLsbD 1 = true ∧ r.afErr = false ∧ 1 ≤ r.afLen.toNat → some r.afFlags = p[5]?) ∧
      (¬ (afc.getLsbD 1 = true ∧ r.afErr = false ∧ 1 ≤ r.afLen.toNat) → r.afFlags = 0) ∧
      r.di = r.afFlags.getLsbD 7 ∧ r.rai = r.afFlags.getLsbD 6 ∧
      (r.pcrValid = true ↔ r.afFlags.getLsbD 4 = true ∧ 7 ≤ r.afLen.toNat) ∧
      r.pcr = (if r.pcrValid then clockRefWord (fun i => p.getD (6 + i) 0) else 0) ∧
      (r.opcrValid = true ↔ r.afFlags.getLsbD 3 = true ∧
        (if r.afFlags.getLsbD 4 then 12 else 6) + 1 ≤ r.afLen.toNat) ∧
      r.opcr = (if r.opcrValid then
        clockRefWord (fun i => p.getD ((if r.afFlags.getLsbD 4 then 12 else 6) + i) 0) else 0)

/-- R196, R204: where the payload lies, and when it is handed downstream. -/
def Obligations.PayloadIsLocatedAndWithheld : Prop :=
  ∀ (s : State) (p : List Byte) (h : Hdr) (afc : BitVec 2), CoreAt s p →
    ∃ t r, RunsTo (routedForm h afc) s t r ∧
      (afc.getLsbD 0 = true ∧ r.afErr = false →
        r.payOff.toNat = (if afc = 1 then 4 else 5 + r.afLen.toNat) ∧ r.payLen.toNat = 188 - r.payOff.toNat ∧
        r.payOff.toNat ≤ 188) ∧
      (¬ (afc.getLsbD 0 = true ∧ r.afErr = false) → r.payOff = 0 ∧ r.payLen = 0) ∧
      (r.payValid = true ↔ afc.getLsbD 0 = true ∧ r.afErr = false ∧ r.dup = false ∧ r.ccErr = false) ∧
      (r.payValid = true → r.payload = p.drop r.payOff.toNat ∧ r.payload.length = r.payLen.toNat) ∧
      (r.payValid = false → r.payload = [])

/-- R198, R200: whether the continuity check is made, and its three cases in order. -/
def Obligations.ContinuityVerdictFollowsTheCases : Prop :=
  ∀ (s : State) (p : List Byte) (h : Hdr) (afc : BitVec 2), CoreAt s p →
    ∃ t r, RunsTo (routedForm h afc) s t r ∧
      (¬ (afc.getLsbD 0 = true ∧ r.di = false ∧ (pidRead s h.pid).hasCc = true) → r.dup = false ∧ r.ccErr = false) ∧
      (afc.getLsbD 0 = true ∧ r.di = false ∧ (pidRead s h.pid).hasCc = true →
        (h.cc.toNat = ((pidRead s h.pid).lastCc.toNat + 1) % 16 → r.dup = false ∧ r.ccErr = false) ∧
        (h.cc = (pidRead s h.pid).lastCc ∧ p = lastRead s h.pid ∧ (pidRead s h.pid).dupSeen = false →
          r.dup = true ∧ r.ccErr = false) ∧
        (h.cc.toNat ≠ ((pidRead s h.pid).lastCc.toNat + 1) % 16 ∧
          ¬ (h.cc = (pidRead s h.pid).lastCc ∧ p = lastRead s h.pid ∧ (pidRead s h.pid).dupSeen = false) →
          r.dup = false ∧ r.ccErr = true))

/-- R201, R202, R203: a duplicate is counted and leaves the expectation; every other routed packet becomes the previous one;
an error is counted. -/
def Obligations.VerdictUpdatesExpectationAndCounts : Prop :=
  ∀ (s : State) (p : List Byte) (h : Hdr) (afc : BitVec 2), CoreAt s p →
    ∃ t r, RunsTo (routedForm h afc) s t r ∧
      (r.dup = true →
        (pidRead t h.pid).dupCnt = (pidRead s h.pid).dupCnt + 1 ∧ t.frm.dupCount = s.frm.dupCount + 1 ∧
        (pidRead t h.pid).dupSeen = true ∧ (pidRead t h.pid).lastCc = (pidRead s h.pid).lastCc ∧
        (pidRead t h.pid).hasCc = (pidRead s h.pid).hasCc ∧ lastRead t h.pid = lastRead s h.pid) ∧
      (r.dup = false →
        (pidRead t h.pid).dupCnt = (pidRead s h.pid).dupCnt ∧ t.frm.dupCount = s.frm.dupCount ∧
        (pidRead t h.pid).dupSeen = false ∧ (pidRead t h.pid).lastCc = h.cc ∧ (pidRead t h.pid).hasCc = true ∧
        lastRead t h.pid = p) ∧
      (r.ccErr = true → (pidRead t h.pid).ccErrCnt = (pidRead s h.pid).ccErrCnt + 1 ∧
        t.frm.ccErrors = s.frm.ccErrors + 1) ∧
      (r.ccErr = false → (pidRead t h.pid).ccErrCnt = (pidRead s h.pid).ccErrCnt ∧ t.frm.ccErrors = s.frm.ccErrors)

/-- R205, R206, R207: only a start-indicator packet whose payload is handed on classifies; it sets an unset role, and is
counted when it disagrees with a fixed one. -/
def Obligations.RoleIsSetOnceAndMismatchCounted : Prop :=
  ∀ (s : State) (p : List Byte) (h : Hdr) (afc : BitVec 2), CoreAt s p →
    ∃ t r, RunsTo (routedForm h afc) s t r ∧ r.role = (pidRead t h.pid).role ∧
      (¬ (h.pusi = true ∧ r.payValid = true) →
        (pidRead t h.pid).role = (pidRead s h.pid).role ∧ r.roleMismatch = false) ∧
      (h.pusi = true ∧ r.payValid = true →
        ((pidRead s h.pid).role = .unclassified →
          (pidRead t h.pid).role = (if r.payload.take 3 = [0, 0, 1] then .pes else .psi) ∧ r.roleMismatch = false) ∧
        ((pidRead s h.pid).role ≠ .unclassified →
          (pidRead t h.pid).role = (pidRead s h.pid).role ∧
          (r.roleMismatch = true ↔ (pidRead s h.pid).role ≠ (if r.payload.take 3 = [0, 0, 1] then .pes else .psi)))) ∧
      (r.roleMismatch = true → (pidRead t h.pid).roleErrCnt = (pidRead s h.pid).roleErrCnt + 1 ∧
        t.frm.roleErrors = s.frm.roleErrors + 1) ∧
      (r.roleMismatch = false → (pidRead t h.pid).roleErrCnt = (pidRead s h.pid).roleErrCnt ∧
        t.frm.roleErrors = s.frm.roleErrors)

/-- R217 (a): a tolerated duplicate is never followed by another: the next copy of the same packet is a continuity error,
and the copy after that is a duplicate again. -/
def Obligations.OnlyOneRepeatIsTolerated : Prop :=
  ∀ (s t u v : State) (p : List Byte) (h : Hdr) (afc : BitVec 2) (r₁ r₂ r₃ : Record),
    CoreAt s p → CoreAt t p → CoreAt u p →
    RunsTo (routedForm h afc) s t r₁ → RunsTo (routedForm h afc) t u r₂ → RunsTo (routedForm h afc) u v r₃ →
    r₁.dup = true → r₂.dup = false ∧ r₂.ccErr = true ∧ r₃.dup = true ∧ r₃.ccErr = false

/-! ## Registers -/

/-- R42, R47, and the reads of R36, R40, R41, R43, R44, R45, R46: what a read of each slot returns, with the numbers of FSTATE
(R21), of the causes (R292) and of the roles (R28); the bits no layout names read 0. A natural number too wide for its slot is
cut to 64 bits, a choice of the model (log 19). -/
def Obligations.RegisterReadsReturnTheFields : Prop :=
  fstateCode .idle = 0 ∧ fstateCode .probe = 1 ∧ fstateCode .run = 2 ∧ fstateCode .done = 3 ∧ fstateCode .fail = 4 ∧
  fstateCode .aborted = 5 ∧
  causeCode .none = 0 ∧ causeCode .illegalCmd = 1 ∧ causeCode .badState = 2 ∧ causeCode .bcBounds = 3 ∧
  causeCode .bcWidth = 4 ∧ causeCode .bcCodeTooLong = 5 ∧ causeCode .bcFull = 6 ∧
  roleCode .unclassified = 0 ∧ roleCode .psi = 1 ∧ roleCode .pes = 2 ∧
  ∀ s : State,
    regRead s 0x000 = 0 ∧
    (regRead s 0x008).extractLsb' 0 32 = s.resp.value ∧ (regRead s 0x008).extractLsb' 32 4 = causeCode s.resp.cause ∧
    (regRead s 0x008).getLsbD 36 = s.resp.err ∧ (regRead s 0x008).extractLsb' 40 8 = s.resp.opc ∧
    (regRead s 0x010).extractLsb' 0 8 = s.cfg.probeMinRun ∧ (regRead s 0x010).extractLsb' 8 16 = s.cfg.probeWindow ∧
    (regRead s 0x010).extractLsb' 24 3 = s.cfg.strideMode ∧
    (regRead s 0x018).extractLsb' 0 3 = fstateCode s.frm.fstate ∧ (regRead s 0x018).getLsbD 3 = s.frm.abortReq ∧
    (regRead s 0x018).extractLsb' 8 8 = s.frm.stride ∧ (regRead s 0x018).getLsbD 16 = s.frm.lead ∧
    (regRead s 0x018).getLsbD 17 = s.frm.trail ∧
    regRead s 0x020 = s.frm.pktCount ∧ regRead s 0x028 = s.frm.syncErrors ∧ regRead s 0x030 = s.frm.teiCount ∧
    regRead s 0x038 = s.frm.ccErrors ∧ regRead s 0x040 = s.frm.dupCount ∧ regRead s 0x048 = s.frm.afErrors ∧
    regRead s 0x050 = s.frm.roleErrors ∧ regRead s 0x058 = s.frm.pidCount ∧ regRead s 0x060 = s.frm.pos ∧
    regRead s 0x068 = s.crc.reg.setWidth 64 ∧ (regRead s 0x070).getLsbD 0 = s.crc.matched ∧
    regRead s 0x078 = s.crc.errors ∧
    regRead s 0x080 = BitVec.ofNat 64 s.bc.bitPos ∧ regRead s 0x088 = BitVec.ofNat 64 s.bc.bufLen ∧
    (regRead s 0x090).getLsbD 0 = s.bc.errSticky ∧ (regRead s 0x090).extractLsb' 1 4 = causeCode s.bc.lastCause ∧
    regRead s 0x098 = s.pidSel.setWidth 64 ∧
    (regRead s 0x008).extractLsb' 37 3 = 0 ∧ (regRead s 0x008).extractLsb' 48 16 = 0 ∧
    (regRead s 0x010).extractLsb' 27 37 = 0 ∧ (regRead s 0x018).extractLsb' 4 4 = 0 ∧
    (regRead s 0x018).extractLsb' 18 46 = 0 ∧ (regRead s 0x070).extractLsb' 1 63 = 0 ∧
    (regRead s 0x090).extractLsb' 5 59 = 0 ∧ (regRead s 0x0A0).extractLsb' 9 55 = 0 ∧
    (regRead s 0x0A0).getLsbD 0 = s.pidWin.valid ∧ (regRead s 0x0A0).extractLsb' 1 2 = roleCode s.pidWin.role ∧
    (regRead s 0x0A0).extractLsb' 3 4 = s.pidWin.lastCc ∧ (regRead s 0x0A0).getLsbD 7 = s.pidWin.hasCc ∧
    (regRead s 0x0A0).getLsbD 8 = s.pidWin.dupSeen ∧
    regRead s 0x0A8 = s.pidWin.pktCnt ∧ regRead s 0x0B0 = s.pidWin.dupCnt ∧ regRead s 0x0B8 = s.pidWin.ccErrCnt ∧
    regRead s 0x0C0 = s.pidWin.afErrCnt ∧ regRead s 0x0C8 = s.pidWin.roleErrCnt ∧
    regRead s 0x0D0 = BitVec.ofNat 64 s.params.bcBufBytes ∧ regRead s 0x0D8 = BitVec.ofNat 64 s.params.cancelN

/-- R37, R83, R86: no read has a side effect; the low three address bits are ignored; CMD and addresses 0x0E0 and above read
0; and a write anywhere but CMD, CFG, BC_STATUS and PID_SEL changes nothing. The latch
rdata of the last value read is the model's own (log 10). -/
def Obligations.RegisterAccessesOutsideTheMapDoNothing : Prop :=
  ∀ (s : State) (a : BitVec 12),
    (∃ t, hostAccess (.read a) s = .next t ∧ t = { s with ports.rdata := regRead s a }) ∧
    regRead s a = regRead s (a &&& 0xFF8) ∧
    (∀ v, hostAccess (.write a v) s = hostAccess (.write (a &&& 0xFF8) v) s) ∧
    (a &&& 0xFF8 = 0x000 ∨ 0x0E0 ≤ a.toNat → regRead s a = 0) ∧
    ∀ v, a &&& 0xFF8 ≠ 0x000 → a &&& 0xFF8 ≠ 0x010 → a &&& 0xFF8 ≠ 0x090 → a &&& 0xFF8 ≠ 0x098 →
      hostAccess (.write a v) s = .next s

/-- R41, R45, R46: the three registers the host can write: CFG field by field and only in IDLE, BC_STATUS by writing 1 to
bit 0, PID_SEL with its snapshot. -/
def Obligations.WritableRegistersTakeTheirFields : Prop :=
  ∀ (s : State) (v : Word64),
    (s.frm.fstate ≠ .idle → hostAccess (.write 0x010 v) s = .next s) ∧
    (s.frm.fstate = .idle → ∃ t, hostAccess (.write 0x010 v) s = .next t ∧ t = { s with cfg := t.cfg } ∧
      t.cfg.probeMinRun = (if v.extractLsb' 0 8 = 0 then s.cfg.probeMinRun else v.extractLsb' 0 8) ∧
      t.cfg.probeWindow = (if v.extractLsb' 8 16 = 0 then s.cfg.probeWindow else v.extractLsb' 8 16) ∧
      t.cfg.strideMode = (if 5 ≤ (v.extractLsb' 24 3).toNat then s.cfg.strideMode else v.extractLsb' 24 3)) ∧
    (v.getLsbD 0 = false → hostAccess (.write 0x090 v) s = .next s) ∧
    (v.getLsbD 0 = true →
      hostAccess (.write 0x090 v) s = .next { s with bc.errSticky := false, bc.lastCause := .none }) ∧
    hostAccess (.write 0x098 v) s =
      .next { s with pidSel := v.extractLsb' 0 13, pidWin := pidRead s (v.extractLsb' 0 13) }

/-! ## Independence -/

/-- R93: a framer step commutes with every command of the CRC unit and of the bit cursor. -/
def Obligations.FramerStepCommutesWithUnitCommands : Prop :=
  ∀ (i : Instr) (s u : State), isCrcCmd i = true ∨ isBcCmd i = true → framerStep s = .next u →
    ∃ t v, exec i s = .next t ∧ exec i u = .next v ∧ framerStep t = .next v

/-- R31, U1: a store LAST[pid] is read only once the PID holds a counter: two states that differ only in stores of PIDs
without one take the same step, and still differ only so. -/
def Obligations.UnwrittenLastPacketsAreUnobservable : Prop :=
  ∀ s t s' : State, SameButUnreadLast s t → step s = .next s' →
    ∃ t', step t = .next t' ∧ SameButUnreadLast s' t'

/-! ## The other two parties -/

/-- R70, R72, R76, R322, R326, R327: a move of the source appends its next bytes in order, in PROBE and RUN and before the end
mark only, and sets the mark with its last byte; a source that starts over replaces what it has not handed over; a move of
the sink takes the next transfers in order; and FRM.START sets the end mark exactly when the source has no byte and marks the
end. The fields, the end mark at FRM.START and moves of several bytes at once are the model's (log 2, 3, 6, 25, 26). -/
def Obligations.SourceAndSinkMovesTransferInOrder : Prop :=
  (∀ (s : State) (n : Nat) (ts : List Turn), s.ports.turns = .source n :: ts →
    (¬ ((s.frm.fstate = .probe ∨ s.frm.fstate = .run) ∧ s.ports.streamEnd = false) →
      step s = .next { s with ports.turns := ts }) ∧
    ((s.frm.fstate = .probe ∨ s.frm.fstate = .run) ∧ s.ports.streamEnd = false → ∃ t, step s = .next t ∧
      t = { s with
            ports.turns := ts, ports.stream := s.ports.stream ++ s.ports.input.take n
            ports.input := s.ports.input.drop n
            ports.streamEnd := t.ports.streamEnd, ports.inputEnds := t.ports.inputEnds } ∧
      (t.ports.streamEnd = true ↔
        s.ports.input.take n ≠ [] ∧ s.ports.input.drop n = [] ∧ s.ports.inputEnds = true) ∧
      (t.ports.inputEnds = true ↔ s.ports.inputEnds = true ∧ t.ports.streamEnd = false))) ∧
  (∀ (s : State) (bytes : List Byte) (ends : Bool) (ts : List Turn), s.ports.turns = .present bytes ends :: ts →
    step s = .next { s with ports.turns := ts, ports.input := bytes, ports.inputEnds := ends }) ∧
  (∀ (s : State) (n : Nat) (ts : List Turn), s.ports.turns = .sink n :: ts →
    step s = .next { s with
      ports.turns := ts, ports.sinkGot := s.ports.sinkGot ++ s.ports.recPort.take n
      ports.recPort := s.ports.recPort.drop n }) ∧
  ∀ s : State, s.frm.fstate = .idle → ∃ t, exec .frmStart s = .next t ∧
    (t.ports.streamEnd = true ↔ s.ports.input = [] ∧ s.ports.inputEnds = true) ∧
    (t.ports.inputEnds = true ↔ s.ports.inputEnds = true ∧ s.ports.input ≠ [])
end

