-- ==== Sys2Proof/Laws/State.lean ====
section
/-! SUPPORT. The state record's small lemmas: what each named update leaves of each field, true by unfolding, so that no
later proof unfolds a record update. -/

namespace Sys2Proof.Machine

open Sys2Proof

/-! ### respond -/

@[simp] theorem respond_frm (opc : BitVec 8) (c : Cause) (v : Word32) (s : State) : (respond opc c v s).frm = s.frm :=
    rfl
@[simp] theorem respond_crc (opc : BitVec 8) (c : Cause) (v : Word32) (s : State) : (respond opc c v s).crc = s.crc :=
    rfl
@[simp] theorem respond_bc (opc : BitVec 8) (c : Cause) (v : Word32) (s : State) : (respond opc c v s).bc = s.bc :=
    rfl
@[simp] theorem respond_cfg (opc : BitVec 8) (c : Cause) (v : Word32) (s : State) : (respond opc c v s).cfg = s.cfg :=
    rfl
@[simp] theorem respond_pidSel (opc : BitVec 8) (c : Cause) (v : Word32) (s : State) : (respond opc c v s).pidSel = s.pidSel :=
    rfl
@[simp] theorem respond_pidWin (opc : BitVec 8) (c : Cause) (v : Word32) (s : State) : (respond opc c v s).pidWin = s.pidWin :=
    rfl
@[simp] theorem respond_params (opc : BitVec 8) (c : Cause) (v : Word32) (s : State) : (respond opc c v s).params = s.params :=
    rfl
@[simp] theorem respond_ports (opc : BitVec 8) (c : Cause) (v : Word32) (s : State) : (respond opc c v s).ports = s.ports :=
    rfl
@[simp] theorem respond_resp (opc : BitVec 8) (c : Cause) (v : Word32) (s : State) : (respond opc c v s).resp = { opc, err := decide (c ≠ .none), cause := c, value := v } :=
    rfl

/-! ### respondOk -/

@[simp] theorem respondOk_frm (opc : BitVec 8) (v : Word32) (s : State) : (respondOk opc v s).frm = s.frm := rfl
@[simp] theorem respondOk_crc (opc : BitVec 8) (v : Word32) (s : State) : (respondOk opc v s).crc = s.crc := rfl
@[simp] theorem respondOk_bc (opc : BitVec 8) (v : Word32) (s : State) : (respondOk opc v s).bc = s.bc := rfl
@[simp] theorem respondOk_cfg (opc : BitVec 8) (v : Word32) (s : State) : (respondOk opc v s).cfg = s.cfg := rfl
@[simp] theorem respondOk_pidSel (opc : BitVec 8) (v : Word32) (s : State) : (respondOk opc v s).pidSel = s.pidSel :=
    rfl
@[simp] theorem respondOk_pidWin (opc : BitVec 8) (v : Word32) (s : State) : (respondOk opc v s).pidWin = s.pidWin :=
    rfl
@[simp] theorem respondOk_params (opc : BitVec 8) (v : Word32) (s : State) : (respondOk opc v s).params = s.params :=
    rfl
@[simp] theorem respondOk_ports (opc : BitVec 8) (v : Word32) (s : State) : (respondOk opc v s).ports = s.ports :=
    rfl
@[simp] theorem respondOk_resp (opc : BitVec 8) (v : Word32) (s : State) : (respondOk opc v s).resp = { opc, err := false, cause := .none, value := v } :=
    rfl

/-! ### respondErr -/

@[simp] theorem respondErr_frm (opc : BitVec 8) (c : Cause) (s : State) : (respondErr opc c s).frm = s.frm := rfl
@[simp] theorem respondErr_crc (opc : BitVec 8) (c : Cause) (s : State) : (respondErr opc c s).crc = s.crc := rfl
@[simp] theorem respondErr_bc (opc : BitVec 8) (c : Cause) (s : State) : (respondErr opc c s).bc = s.bc := rfl
@[simp] theorem respondErr_cfg (opc : BitVec 8) (c : Cause) (s : State) : (respondErr opc c s).cfg = s.cfg := rfl
@[simp] theorem respondErr_pidSel (opc : BitVec 8) (c : Cause) (s : State) : (respondErr opc c s).pidSel = s.pidSel :=
    rfl
@[simp] theorem respondErr_pidWin (opc : BitVec 8) (c : Cause) (s : State) : (respondErr opc c s).pidWin = s.pidWin :=
    rfl
@[simp] theorem respondErr_params (opc : BitVec 8) (c : Cause) (s : State) : (respondErr opc c s).params = s.params :=
    rfl
@[simp] theorem respondErr_ports (opc : BitVec 8) (c : Cause) (s : State) : (respondErr opc c s).ports = s.ports :=
    rfl
@[simp] theorem respondErr_resp (opc : BitVec 8) (c : Cause) (s : State) : (respondErr opc c s).resp = { opc, err := decide (c ≠ .none), cause := c, value := 0 } :=
    rfl

/-! ### bcFail -/

@[simp] theorem bcFail_frm (opc : BitVec 8) (c : Cause) (s : State) : (bcFail opc c s).frm = s.frm := rfl
@[simp] theorem bcFail_crc (opc : BitVec 8) (c : Cause) (s : State) : (bcFail opc c s).crc = s.crc := rfl
@[simp] theorem bcFail_cfg (opc : BitVec 8) (c : Cause) (s : State) : (bcFail opc c s).cfg = s.cfg := rfl
@[simp] theorem bcFail_pidSel (opc : BitVec 8) (c : Cause) (s : State) : (bcFail opc c s).pidSel = s.pidSel := rfl
@[simp] theorem bcFail_pidWin (opc : BitVec 8) (c : Cause) (s : State) : (bcFail opc c s).pidWin = s.pidWin := rfl
@[simp] theorem bcFail_params (opc : BitVec 8) (c : Cause) (s : State) : (bcFail opc c s).params = s.params := rfl
@[simp] theorem bcFail_ports (opc : BitVec 8) (c : Cause) (s : State) : (bcFail opc c s).ports = s.ports := rfl
@[simp] theorem bcFail_bc_buf (opc : BitVec 8) (c : Cause) (s : State) : (bcFail opc c s).bc.buf = s.bc.buf := rfl
@[simp] theorem bcFail_bc_bufLen (opc : BitVec 8) (c : Cause) (s : State) : (bcFail opc c s).bc.bufLen = s.bc.bufLen :=
    rfl
@[simp] theorem bcFail_bc_bitPos (opc : BitVec 8) (c : Cause) (s : State) : (bcFail opc c s).bc.bitPos = s.bc.bitPos :=
    rfl
@[simp] theorem bcFail_bc_errSticky (opc : BitVec 8) (c : Cause) (s : State) : (bcFail opc c s).bc.errSticky = true :=
    rfl
@[simp] theorem bcFail_bc_lastCause (opc : BitVec 8) (c : Cause) (s : State) : (bcFail opc c s).bc.lastCause = c :=
    rfl
@[simp] theorem bcFail_resp (opc : BitVec 8) (c : Cause) (s : State) : (bcFail opc c s).resp = { opc, err := decide (c ≠ .none), cause := c, value := 0 } :=
    rfl

/-! ### pidUpdate -/

@[simp] theorem pidUpdate_crc (pid : Pid) (f : PidRec → PidRec) (s : State) : (pidUpdate pid f s).crc = s.crc :=
    rfl
@[simp] theorem pidUpdate_bc (pid : Pid) (f : PidRec → PidRec) (s : State) : (pidUpdate pid f s).bc = s.bc := rfl
@[simp] theorem pidUpdate_cfg (pid : Pid) (f : PidRec → PidRec) (s : State) : (pidUpdate pid f s).cfg = s.cfg :=
    rfl
@[simp] theorem pidUpdate_resp (pid : Pid) (f : PidRec → PidRec) (s : State) : (pidUpdate pid f s).resp = s.resp :=
    rfl
@[simp] theorem pidUpdate_pidSel (pid : Pid) (f : PidRec → PidRec) (s : State) : (pidUpdate pid f s).pidSel = s.pidSel :=
    rfl
@[simp] theorem pidUpdate_pidWin (pid : Pid) (f : PidRec → PidRec) (s : State) : (pidUpdate pid f s).pidWin = s.pidWin :=
    rfl
@[simp] theorem pidUpdate_params (pid : Pid) (f : PidRec → PidRec) (s : State) : (pidUpdate pid f s).params = s.params :=
    rfl
@[simp] theorem pidUpdate_ports (pid : Pid) (f : PidRec → PidRec) (s : State) : (pidUpdate pid f s).ports = s.ports :=
    rfl
@[simp] theorem pidUpdate_frm_fstate (pid : Pid) (f : PidRec → PidRec) (s : State) : (pidUpdate pid f s).frm.fstate = s.frm.fstate :=
    rfl
@[simp] theorem pidUpdate_frm_stride (pid : Pid) (f : PidRec → PidRec) (s : State) : (pidUpdate pid f s).frm.stride = s.frm.stride :=
    rfl
@[simp] theorem pidUpdate_frm_lead (pid : Pid) (f : PidRec → PidRec) (s : State) : (pidUpdate pid f s).frm.lead = s.frm.lead :=
    rfl
@[simp] theorem pidUpdate_frm_trail (pid : Pid) (f : PidRec → PidRec) (s : State) : (pidUpdate pid f s).frm.trail = s.frm.trail :=
    rfl
@[simp] theorem pidUpdate_frm_pos (pid : Pid) (f : PidRec → PidRec) (s : State) : (pidUpdate pid f s).frm.pos = s.frm.pos :=
    rfl
@[simp] theorem pidUpdate_frm_abortReq (pid : Pid) (f : PidRec → PidRec) (s : State) : (pidUpdate pid f s).frm.abortReq = s.frm.abortReq :=
    rfl
@[simp] theorem pidUpdate_frm_pktCount (pid : Pid) (f : PidRec → PidRec) (s : State) : (pidUpdate pid f s).frm.pktCount = s.frm.pktCount :=
    rfl
@[simp] theorem pidUpdate_frm_syncErrors (pid : Pid) (f : PidRec → PidRec) (s : State) : (pidUpdate pid f s).frm.syncErrors = s.frm.syncErrors :=
    rfl
@[simp] theorem pidUpdate_frm_teiCount (pid : Pid) (f : PidRec → PidRec) (s : State) : (pidUpdate pid f s).frm.teiCount = s.frm.teiCount :=
    rfl
@[simp] theorem pidUpdate_frm_ccErrors (pid : Pid) (f : PidRec → PidRec) (s : State) : (pidUpdate pid f s).frm.ccErrors = s.frm.ccErrors :=
    rfl
@[simp] theorem pidUpdate_frm_dupCount (pid : Pid) (f : PidRec → PidRec) (s : State) : (pidUpdate pid f s).frm.dupCount = s.frm.dupCount :=
    rfl
@[simp] theorem pidUpdate_frm_afErrors (pid : Pid) (f : PidRec → PidRec) (s : State) : (pidUpdate pid f s).frm.afErrors = s.frm.afErrors :=
    rfl
@[simp] theorem pidUpdate_frm_roleErrors (pid : Pid) (f : PidRec → PidRec) (s : State) : (pidUpdate pid f s).frm.roleErrors = s.frm.roleErrors :=
    rfl
@[simp] theorem pidUpdate_frm_pidCount (pid : Pid) (f : PidRec → PidRec) (s : State) : (pidUpdate pid f s).frm.pidCount = s.frm.pidCount :=
    rfl
@[simp] theorem pidUpdate_frm_lastpkt (pid : Pid) (f : PidRec → PidRec) (s : State) : (pidUpdate pid f s).frm.lastpkt = s.frm.lastpkt :=
    rfl
@[simp] theorem pidUpdate_frm_out (pid : Pid) (f : PidRec → PidRec) (s : State) : (pidUpdate pid f s).frm.out = s.frm.out :=
    rfl
@[simp] theorem pidUpdate_frm_pidtab (pid : Pid) (f : PidRec → PidRec) (s : State) : (pidUpdate pid f s).frm.pidtab = SMap.set PidRec.reset s.frm.pidtab pid.toNat (f (pidRead s pid)) :=
    rfl

/-! ### lastWrite -/

@[simp] theorem lastWrite_crc (pid : Pid) (p : List Byte) (s : State) : (lastWrite pid p s).crc = s.crc := rfl
@[simp] theorem lastWrite_bc (pid : Pid) (p : List Byte) (s : State) : (lastWrite pid p s).bc = s.bc := rfl
@[simp] theorem lastWrite_cfg (pid : Pid) (p : List Byte) (s : State) : (lastWrite pid p s).cfg = s.cfg := rfl
@[simp] theorem lastWrite_resp (pid : Pid) (p : List Byte) (s : State) : (lastWrite pid p s).resp = s.resp := rfl
@[simp] theorem lastWrite_pidSel (pid : Pid) (p : List Byte) (s : State) : (lastWrite pid p s).pidSel = s.pidSel :=
    rfl
@[simp] theorem lastWrite_pidWin (pid : Pid) (p : List Byte) (s : State) : (lastWrite pid p s).pidWin = s.pidWin :=
    rfl
@[simp] theorem lastWrite_params (pid : Pid) (p : List Byte) (s : State) : (lastWrite pid p s).params = s.params :=
    rfl
@[simp] theorem lastWrite_ports (pid : Pid) (p : List Byte) (s : State) : (lastWrite pid p s).ports = s.ports :=
    rfl
@[simp] theorem lastWrite_frm_fstate (pid : Pid) (p : List Byte) (s : State) : (lastWrite pid p s).frm.fstate = s.frm.fstate :=
    rfl
@[simp] theorem lastWrite_frm_stride (pid : Pid) (p : List Byte) (s : State) : (lastWrite pid p s).frm.stride = s.frm.stride :=
    rfl
@[simp] theorem lastWrite_frm_lead (pid : Pid) (p : List Byte) (s : State) : (lastWrite pid p s).frm.lead = s.frm.lead :=
    rfl
@[simp] theorem lastWrite_frm_trail (pid : Pid) (p : List Byte) (s : State) : (lastWrite pid p s).frm.trail = s.frm.trail :=
    rfl
@[simp] theorem lastWrite_frm_pos (pid : Pid) (p : List Byte) (s : State) : (lastWrite pid p s).frm.pos = s.frm.pos :=
    rfl
@[simp] theorem lastWrite_frm_abortReq (pid : Pid) (p : List Byte) (s : State) : (lastWrite pid p s).frm.abortReq = s.frm.abortReq :=
    rfl
@[simp] theorem lastWrite_frm_pktCount (pid : Pid) (p : List Byte) (s : State) : (lastWrite pid p s).frm.pktCount = s.frm.pktCount :=
    rfl
@[simp] theorem lastWrite_frm_syncErrors (pid : Pid) (p : List Byte) (s : State) : (lastWrite pid p s).frm.syncErrors = s.frm.syncErrors :=
    rfl
@[simp] theorem lastWrite_frm_teiCount (pid : Pid) (p : List Byte) (s : State) : (lastWrite pid p s).frm.teiCount = s.frm.teiCount :=
    rfl
@[simp] theorem lastWrite_frm_ccErrors (pid : Pid) (p : List Byte) (s : State) : (lastWrite pid p s).frm.ccErrors = s.frm.ccErrors :=
    rfl
@[simp] theorem lastWrite_frm_dupCount (pid : Pid) (p : List Byte) (s : State) : (lastWrite pid p s).frm.dupCount = s.frm.dupCount :=
    rfl
@[simp] theorem lastWrite_frm_afErrors (pid : Pid) (p : List Byte) (s : State) : (lastWrite pid p s).frm.afErrors = s.frm.afErrors :=
    rfl
@[simp] theorem lastWrite_frm_roleErrors (pid : Pid) (p : List Byte) (s : State) : (lastWrite pid p s).frm.roleErrors = s.frm.roleErrors :=
    rfl
@[simp] theorem lastWrite_frm_pidCount (pid : Pid) (p : List Byte) (s : State) : (lastWrite pid p s).frm.pidCount = s.frm.pidCount :=
    rfl
@[simp] theorem lastWrite_frm_pidtab (pid : Pid) (p : List Byte) (s : State) : (lastWrite pid p s).frm.pidtab = s.frm.pidtab :=
    rfl
@[simp] theorem lastWrite_frm_out (pid : Pid) (p : List Byte) (s : State) : (lastWrite pid p s).frm.out = s.frm.out :=
    rfl
@[simp] theorem lastWrite_frm_lastpkt (pid : Pid) (p : List Byte) (s : State) : (lastWrite pid p s).frm.lastpkt = SMap.set unwrittenCore s.frm.lastpkt pid.toNat p :=
    rfl

/-! ### emit -/

@[simp] theorem emit_crc (r : Record) (s : State) : (emit r s).crc = s.crc := rfl
@[simp] theorem emit_bc (r : Record) (s : State) : (emit r s).bc = s.bc := rfl
@[simp] theorem emit_cfg (r : Record) (s : State) : (emit r s).cfg = s.cfg := rfl
@[simp] theorem emit_resp (r : Record) (s : State) : (emit r s).resp = s.resp := rfl
@[simp] theorem emit_pidSel (r : Record) (s : State) : (emit r s).pidSel = s.pidSel := rfl
@[simp] theorem emit_pidWin (r : Record) (s : State) : (emit r s).pidWin = s.pidWin := rfl
@[simp] theorem emit_params (r : Record) (s : State) : (emit r s).params = s.params := rfl
@[simp] theorem emit_frm_fstate (r : Record) (s : State) : (emit r s).frm.fstate = s.frm.fstate := rfl
@[simp] theorem emit_frm_stride (r : Record) (s : State) : (emit r s).frm.stride = s.frm.stride := rfl
@[simp] theorem emit_frm_lead (r : Record) (s : State) : (emit r s).frm.lead = s.frm.lead := rfl
@[simp] theorem emit_frm_trail (r : Record) (s : State) : (emit r s).frm.trail = s.frm.trail := rfl
@[simp] theorem emit_frm_pos (r : Record) (s : State) : (emit r s).frm.pos = s.frm.pos := rfl
@[simp] theorem emit_frm_abortReq (r : Record) (s : State) : (emit r s).frm.abortReq = s.frm.abortReq := rfl
@[simp] theorem emit_frm_pktCount (r : Record) (s : State) : (emit r s).frm.pktCount = s.frm.pktCount := rfl
@[simp] theorem emit_frm_syncErrors (r : Record) (s : State) : (emit r s).frm.syncErrors = s.frm.syncErrors := rfl
@[simp] theorem emit_frm_teiCount (r : Record) (s : State) : (emit r s).frm.teiCount = s.frm.teiCount := rfl
@[simp] theorem emit_frm_ccErrors (r : Record) (s : State) : (emit r s).frm.ccErrors = s.frm.ccErrors := rfl
@[simp] theorem emit_frm_dupCount (r : Record) (s : State) : (emit r s).frm.dupCount = s.frm.dupCount := rfl
@[simp] theorem emit_frm_afErrors (r : Record) (s : State) : (emit r s).frm.afErrors = s.frm.afErrors := rfl
@[simp] theorem emit_frm_roleErrors (r : Record) (s : State) : (emit r s).frm.roleErrors = s.frm.roleErrors := rfl
@[simp] theorem emit_frm_pidCount (r : Record) (s : State) : (emit r s).frm.pidCount = s.frm.pidCount := rfl
@[simp] theorem emit_frm_pidtab (r : Record) (s : State) : (emit r s).frm.pidtab = s.frm.pidtab := rfl
@[simp] theorem emit_frm_lastpkt (r : Record) (s : State) : (emit r s).frm.lastpkt = s.frm.lastpkt := rfl
@[simp] theorem emit_ports_stream (r : Record) (s : State) : (emit r s).ports.stream = s.ports.stream := rfl
@[simp] theorem emit_ports_streamEnd (r : Record) (s : State) : (emit r s).ports.streamEnd = s.ports.streamEnd :=
    rfl
@[simp] theorem emit_ports_input (r : Record) (s : State) : (emit r s).ports.input = s.ports.input := rfl
@[simp] theorem emit_ports_inputEnds (r : Record) (s : State) : (emit r s).ports.inputEnds = s.ports.inputEnds :=
    rfl
@[simp] theorem emit_ports_sinkGot (r : Record) (s : State) : (emit r s).ports.sinkGot = s.ports.sinkGot := rfl
@[simp] theorem emit_ports_rdata (r : Record) (s : State) : (emit r s).ports.rdata = s.ports.rdata := rfl
@[simp] theorem emit_ports_turns (r : Record) (s : State) : (emit r s).ports.turns = s.ports.turns := rfl
@[simp] theorem emit_frm_out (r : Record) (s : State) : (emit r s).frm.out = s.frm.out ++ [r] := rfl
@[simp] theorem emit_ports_recPort (r : Record) (s : State) : (emit r s).ports.recPort = recordBeats r := rfl

/-! ### advance -/

@[simp] theorem advance_crc (s : State) : (advance s).crc = s.crc := rfl
@[simp] theorem advance_bc (s : State) : (advance s).bc = s.bc := rfl
@[simp] theorem advance_cfg (s : State) : (advance s).cfg = s.cfg := rfl
@[simp] theorem advance_resp (s : State) : (advance s).resp = s.resp := rfl
@[simp] theorem advance_pidSel (s : State) : (advance s).pidSel = s.pidSel := rfl
@[simp] theorem advance_pidWin (s : State) : (advance s).pidWin = s.pidWin := rfl
@[simp] theorem advance_params (s : State) : (advance s).params = s.params := rfl
@[simp] theorem advance_ports (s : State) : (advance s).ports = s.ports := rfl
@[simp] theorem advance_frm_fstate (s : State) : (advance s).frm.fstate = s.frm.fstate := rfl
@[simp] theorem advance_frm_stride (s : State) : (advance s).frm.stride = s.frm.stride := rfl
@[simp] theorem advance_frm_lead (s : State) : (advance s).frm.lead = s.frm.lead := rfl
@[simp] theorem advance_frm_trail (s : State) : (advance s).frm.trail = s.frm.trail := rfl
@[simp] theorem advance_frm_abortReq (s : State) : (advance s).frm.abortReq = s.frm.abortReq := rfl
@[simp] theorem advance_frm_syncErrors (s : State) : (advance s).frm.syncErrors = s.frm.syncErrors := rfl
@[simp] theorem advance_frm_teiCount (s : State) : (advance s).frm.teiCount = s.frm.teiCount := rfl
@[simp] theorem advance_frm_ccErrors (s : State) : (advance s).frm.ccErrors = s.frm.ccErrors := rfl
@[simp] theorem advance_frm_dupCount (s : State) : (advance s).frm.dupCount = s.frm.dupCount := rfl
@[simp] theorem advance_frm_afErrors (s : State) : (advance s).frm.afErrors = s.frm.afErrors := rfl
@[simp] theorem advance_frm_roleErrors (s : State) : (advance s).frm.roleErrors = s.frm.roleErrors := rfl
@[simp] theorem advance_frm_pidCount (s : State) : (advance s).frm.pidCount = s.frm.pidCount := rfl
@[simp] theorem advance_frm_pidtab (s : State) : (advance s).frm.pidtab = s.frm.pidtab := rfl
@[simp] theorem advance_frm_lastpkt (s : State) : (advance s).frm.lastpkt = s.frm.lastpkt := rfl
@[simp] theorem advance_frm_out (s : State) : (advance s).frm.out = s.frm.out := rfl
@[simp] theorem advance_frm_pktCount (s : State) : (advance s).frm.pktCount = s.frm.pktCount + 1 := rfl
@[simp] theorem advance_frm_pos (s : State) : (advance s).frm.pos = s.frm.pos + s.frm.stride.setWidth 64 := rfl

/-! ### remember -/

@[simp] theorem remember_crc (pid : Pid) (cc : BitVec 4) (p : List Byte) (s : State) : (remember pid cc p s).crc = s.crc :=
    rfl
@[simp] theorem remember_bc (pid : Pid) (cc : BitVec 4) (p : List Byte) (s : State) : (remember pid cc p s).bc = s.bc :=
    rfl
@[simp] theorem remember_cfg (pid : Pid) (cc : BitVec 4) (p : List Byte) (s : State) : (remember pid cc p s).cfg = s.cfg :=
    rfl
@[simp] theorem remember_resp (pid : Pid) (cc : BitVec 4) (p : List Byte) (s : State) : (remember pid cc p s).resp = s.resp :=
    rfl
@[simp] theorem remember_pidSel (pid : Pid) (cc : BitVec 4) (p : List Byte) (s : State) : (remember pid cc p s).pidSel = s.pidSel :=
    rfl
@[simp] theorem remember_pidWin (pid : Pid) (cc : BitVec 4) (p : List Byte) (s : State) : (remember pid cc p s).pidWin = s.pidWin :=
    rfl
@[simp] theorem remember_params (pid : Pid) (cc : BitVec 4) (p : List Byte) (s : State) : (remember pid cc p s).params = s.params :=
    rfl
@[simp] theorem remember_ports (pid : Pid) (cc : BitVec 4) (p : List Byte) (s : State) : (remember pid cc p s).ports = s.ports :=
    rfl
@[simp] theorem remember_frm_fstate (pid : Pid) (cc : BitVec 4) (p : List Byte) (s : State) : (remember pid cc p s).frm.fstate = s.frm.fstate :=
    rfl
@[simp] theorem remember_frm_stride (pid : Pid) (cc : BitVec 4) (p : List Byte) (s : State) : (remember pid cc p s).frm.stride = s.frm.stride :=
    rfl
@[simp] theorem remember_frm_lead (pid : Pid) (cc : BitVec 4) (p : List Byte) (s : State) : (remember pid cc p s).frm.lead = s.frm.lead :=
    rfl
@[simp] theorem remember_frm_trail (pid : Pid) (cc : BitVec 4) (p : List Byte) (s : State) : (remember pid cc p s).frm.trail = s.frm.trail :=
    rfl
@[simp] theorem remember_frm_pos (pid : Pid) (cc : BitVec 4) (p : List Byte) (s : State) : (remember pid cc p s).frm.pos = s.frm.pos :=
    rfl
@[simp] theorem remember_frm_abortReq (pid : Pid) (cc : BitVec 4) (p : List Byte) (s : State) : (remember pid cc p s).frm.abortReq = s.frm.abortReq :=
    rfl
@[simp] theorem remember_frm_pktCount (pid : Pid) (cc : BitVec 4) (p : List Byte) (s : State) : (remember pid cc p s).frm.pktCount = s.frm.pktCount :=
    rfl
@[simp] theorem remember_frm_syncErrors (pid : Pid) (cc : BitVec 4) (p : List Byte) (s : State) : (remember pid cc p s).frm.syncErrors = s.frm.syncErrors :=
    rfl
@[simp] theorem remember_frm_teiCount (pid : Pid) (cc : BitVec 4) (p : List Byte) (s : State) : (remember pid cc p s).frm.teiCount = s.frm.teiCount :=
    rfl
@[simp] theorem remember_frm_ccErrors (pid : Pid) (cc : BitVec 4) (p : List Byte) (s : State) : (remember pid cc p s).frm.ccErrors = s.frm.ccErrors :=
    rfl
@[simp] theorem remember_frm_dupCount (pid : Pid) (cc : BitVec 4) (p : List Byte) (s : State) : (remember pid cc p s).frm.dupCount = s.frm.dupCount :=
    rfl
@[simp] theorem remember_frm_afErrors (pid : Pid) (cc : BitVec 4) (p : List Byte) (s : State) : (remember pid cc p s).frm.afErrors = s.frm.afErrors :=
    rfl
@[simp] theorem remember_frm_roleErrors (pid : Pid) (cc : BitVec 4) (p : List Byte) (s : State) : (remember pid cc p s).frm.roleErrors = s.frm.roleErrors :=
    rfl
@[simp] theorem remember_frm_pidCount (pid : Pid) (cc : BitVec 4) (p : List Byte) (s : State) : (remember pid cc p s).frm.pidCount = s.frm.pidCount :=
    rfl
@[simp] theorem remember_frm_out (pid : Pid) (cc : BitVec 4) (p : List Byte) (s : State) : (remember pid cc p s).frm.out = s.frm.out :=
    rfl

/-! ### touchPid -/

@[simp] theorem touchPid_crc (pid : Pid) (s : State) : (touchPid pid s).crc = s.crc := rfl
@[simp] theorem touchPid_bc (pid : Pid) (s : State) : (touchPid pid s).bc = s.bc := rfl
@[simp] theorem touchPid_cfg (pid : Pid) (s : State) : (touchPid pid s).cfg = s.cfg := rfl
@[simp] theorem touchPid_resp (pid : Pid) (s : State) : (touchPid pid s).resp = s.resp := rfl
@[simp] theorem touchPid_pidSel (pid : Pid) (s : State) : (touchPid pid s).pidSel = s.pidSel := rfl
@[simp] theorem touchPid_pidWin (pid : Pid) (s : State) : (touchPid pid s).pidWin = s.pidWin := rfl
@[simp] theorem touchPid_params (pid : Pid) (s : State) : (touchPid pid s).params = s.params := rfl
@[simp] theorem touchPid_ports (pid : Pid) (s : State) : (touchPid pid s).ports = s.ports := rfl
@[simp] theorem touchPid_frm_fstate (pid : Pid) (s : State) : (touchPid pid s).frm.fstate = s.frm.fstate := rfl
@[simp] theorem touchPid_frm_stride (pid : Pid) (s : State) : (touchPid pid s).frm.stride = s.frm.stride := rfl
@[simp] theorem touchPid_frm_lead (pid : Pid) (s : State) : (touchPid pid s).frm.lead = s.frm.lead := rfl
@[simp] theorem touchPid_frm_trail (pid : Pid) (s : State) : (touchPid pid s).frm.trail = s.frm.trail := rfl
@[simp] theorem touchPid_frm_pos (pid : Pid) (s : State) : (touchPid pid s).frm.pos = s.frm.pos := rfl
@[simp] theorem touchPid_frm_abortReq (pid : Pid) (s : State) : (touchPid pid s).frm.abortReq = s.frm.abortReq :=
    rfl
@[simp] theorem touchPid_frm_pktCount (pid : Pid) (s : State) : (touchPid pid s).frm.pktCount = s.frm.pktCount :=
    rfl
@[simp] theorem touchPid_frm_syncErrors (pid : Pid) (s : State) : (touchPid pid s).frm.syncErrors = s.frm.syncErrors :=
    rfl
@[simp] theorem touchPid_frm_teiCount (pid : Pid) (s : State) : (touchPid pid s).frm.teiCount = s.frm.teiCount :=
    rfl
@[simp] theorem touchPid_frm_ccErrors (pid : Pid) (s : State) : (touchPid pid s).frm.ccErrors = s.frm.ccErrors :=
    rfl
@[simp] theorem touchPid_frm_dupCount (pid : Pid) (s : State) : (touchPid pid s).frm.dupCount = s.frm.dupCount :=
    rfl
@[simp] theorem touchPid_frm_afErrors (pid : Pid) (s : State) : (touchPid pid s).frm.afErrors = s.frm.afErrors :=
    rfl
@[simp] theorem touchPid_frm_roleErrors (pid : Pid) (s : State) : (touchPid pid s).frm.roleErrors = s.frm.roleErrors :=
    rfl
@[simp] theorem touchPid_frm_lastpkt (pid : Pid) (s : State) : (touchPid pid s).frm.lastpkt = s.frm.lastpkt := rfl
@[simp] theorem touchPid_frm_out (pid : Pid) (s : State) : (touchPid pid s).frm.out = s.frm.out := rfl
@[simp] theorem touchPid_frm_pidCount (pid : Pid) (s : State) : (touchPid pid s).frm.pidCount = s.frm.pidCount + (if (pidRead s pid).valid then 0 else 1) :=
    rfl

/-! ### sinkStep -/

@[simp] theorem sinkStep_frm (n : Nat) (s : State) : (sinkStep n s).frm = s.frm := rfl
@[simp] theorem sinkStep_crc (n : Nat) (s : State) : (sinkStep n s).crc = s.crc := rfl
@[simp] theorem sinkStep_bc (n : Nat) (s : State) : (sinkStep n s).bc = s.bc := rfl
@[simp] theorem sinkStep_cfg (n : Nat) (s : State) : (sinkStep n s).cfg = s.cfg := rfl
@[simp] theorem sinkStep_resp (n : Nat) (s : State) : (sinkStep n s).resp = s.resp := rfl
@[simp] theorem sinkStep_pidSel (n : Nat) (s : State) : (sinkStep n s).pidSel = s.pidSel := rfl
@[simp] theorem sinkStep_pidWin (n : Nat) (s : State) : (sinkStep n s).pidWin = s.pidWin := rfl
@[simp] theorem sinkStep_params (n : Nat) (s : State) : (sinkStep n s).params = s.params := rfl
@[simp] theorem sinkStep_ports_stream (n : Nat) (s : State) : (sinkStep n s).ports.stream = s.ports.stream := rfl
@[simp] theorem sinkStep_ports_streamEnd (n : Nat) (s : State) : (sinkStep n s).ports.streamEnd = s.ports.streamEnd :=
    rfl
@[simp] theorem sinkStep_ports_input (n : Nat) (s : State) : (sinkStep n s).ports.input = s.ports.input := rfl
@[simp] theorem sinkStep_ports_inputEnds (n : Nat) (s : State) : (sinkStep n s).ports.inputEnds = s.ports.inputEnds :=
    rfl
@[simp] theorem sinkStep_ports_rdata (n : Nat) (s : State) : (sinkStep n s).ports.rdata = s.ports.rdata := rfl
@[simp] theorem sinkStep_ports_turns (n : Nat) (s : State) : (sinkStep n s).ports.turns = s.ports.turns := rfl
@[simp] theorem sinkStep_ports_sinkGot (n : Nat) (s : State) : (sinkStep n s).ports.sinkGot = s.ports.sinkGot ++ s.ports.recPort.take n :=
    rfl
@[simp] theorem sinkStep_ports_recPort (n : Nat) (s : State) : (sinkStep n s).ports.recPort = s.ports.recPort.drop n :=
    rfl

/-! ### presentStep -/

@[simp] theorem presentStep_frm (bs : List Byte) (e : Bool) (s : State) : (presentStep bs e s).frm = s.frm := rfl
@[simp] theorem presentStep_crc (bs : List Byte) (e : Bool) (s : State) : (presentStep bs e s).crc = s.crc := rfl
@[simp] theorem presentStep_bc (bs : List Byte) (e : Bool) (s : State) : (presentStep bs e s).bc = s.bc := rfl
@[simp] theorem presentStep_cfg (bs : List Byte) (e : Bool) (s : State) : (presentStep bs e s).cfg = s.cfg := rfl
@[simp] theorem presentStep_resp (bs : List Byte) (e : Bool) (s : State) : (presentStep bs e s).resp = s.resp :=
    rfl
@[simp] theorem presentStep_pidSel (bs : List Byte) (e : Bool) (s : State) : (presentStep bs e s).pidSel = s.pidSel :=
    rfl
@[simp] theorem presentStep_pidWin (bs : List Byte) (e : Bool) (s : State) : (presentStep bs e s).pidWin = s.pidWin :=
    rfl
@[simp] theorem presentStep_params (bs : List Byte) (e : Bool) (s : State) : (presentStep bs e s).params = s.params :=
    rfl
@[simp] theorem presentStep_ports_stream (bs : List Byte) (e : Bool) (s : State) : (presentStep bs e s).ports.stream = s.ports.stream :=
    rfl
@[simp] theorem presentStep_ports_streamEnd (bs : List Byte) (e : Bool) (s : State) : (presentStep bs e s).ports.streamEnd = s.ports.streamEnd :=
    rfl
@[simp] theorem presentStep_ports_recPort (bs : List Byte) (e : Bool) (s : State) : (presentStep bs e s).ports.recPort = s.ports.recPort :=
    rfl
@[simp] theorem presentStep_ports_sinkGot (bs : List Byte) (e : Bool) (s : State) : (presentStep bs e s).ports.sinkGot = s.ports.sinkGot :=
    rfl
@[simp] theorem presentStep_ports_rdata (bs : List Byte) (e : Bool) (s : State) : (presentStep bs e s).ports.rdata = s.ports.rdata :=
    rfl
@[simp] theorem presentStep_ports_turns (bs : List Byte) (e : Bool) (s : State) : (presentStep bs e s).ports.turns = s.ports.turns :=
    rfl

/-! ### hardReset -/

@[simp] theorem hardReset_params (s : State) : (hardReset s).params = s.params := rfl
@[simp] theorem hardReset_ports_input (s : State) : (hardReset s).ports.input = s.ports.input := rfl
@[simp] theorem hardReset_ports_inputEnds (s : State) : (hardReset s).ports.inputEnds = s.ports.inputEnds := rfl
@[simp] theorem hardReset_ports_rdata (s : State) : (hardReset s).ports.rdata = s.ports.rdata := rfl
@[simp] theorem hardReset_ports_turns (s : State) : (hardReset s).ports.turns = s.ports.turns := rfl
@[simp] theorem hardReset_frm (s : State) : (hardReset s).frm = Framer.reset := rfl
@[simp] theorem hardReset_crc (s : State) : (hardReset s).crc = CrcUnit.reset := rfl
@[simp] theorem hardReset_bc (s : State) : (hardReset s).bc = BitCursor.reset := rfl
@[simp] theorem hardReset_cfg (s : State) : (hardReset s).cfg = Cfg.reset := rfl
@[simp] theorem hardReset_resp (s : State) : (hardReset s).resp = Resp.reset := rfl
@[simp] theorem hardReset_pidSel (s : State) : (hardReset s).pidSel = 0 := rfl
@[simp] theorem hardReset_pidWin (s : State) : (hardReset s).pidWin = PidRec.reset := rfl
@[simp] theorem hardReset_ports_stream (s : State) : (hardReset s).ports.stream = [] := rfl
@[simp] theorem hardReset_ports_streamEnd (s : State) : (hardReset s).ports.streamEnd = false := rfl
@[simp] theorem hardReset_ports_recPort (s : State) : (hardReset s).ports.recPort = [] := rfl
@[simp] theorem hardReset_ports_sinkGot (s : State) : (hardReset s).ports.sinkGot = [] := rfl

/-! ### lockStride -/

@[simp] theorem lockStride_crc (r : StrideRow) (s : State) : (lockStride r s).crc = s.crc := rfl
@[simp] theorem lockStride_bc (r : StrideRow) (s : State) : (lockStride r s).bc = s.bc := rfl
@[simp] theorem lockStride_cfg (r : StrideRow) (s : State) : (lockStride r s).cfg = s.cfg := rfl
@[simp] theorem lockStride_resp (r : StrideRow) (s : State) : (lockStride r s).resp = s.resp := rfl
@[simp] theorem lockStride_pidSel (r : StrideRow) (s : State) : (lockStride r s).pidSel = s.pidSel := rfl
@[simp] theorem lockStride_pidWin (r : StrideRow) (s : State) : (lockStride r s).pidWin = s.pidWin := rfl
@[simp] theorem lockStride_params (r : StrideRow) (s : State) : (lockStride r s).params = s.params := rfl
@[simp] theorem lockStride_ports (r : StrideRow) (s : State) : (lockStride r s).ports = s.ports := rfl
@[simp] theorem lockStride_frm_pos (r : StrideRow) (s : State) : (lockStride r s).frm.pos = s.frm.pos := rfl
@[simp] theorem lockStride_frm_abortReq (r : StrideRow) (s : State) : (lockStride r s).frm.abortReq = s.frm.abortReq :=
    rfl
@[simp] theorem lockStride_frm_pktCount (r : StrideRow) (s : State) : (lockStride r s).frm.pktCount = s.frm.pktCount :=
    rfl
@[simp] theorem lockStride_frm_syncErrors (r : StrideRow) (s : State) : (lockStride r s).frm.syncErrors = s.frm.syncErrors :=
    rfl
@[simp] theorem lockStride_frm_teiCount (r : StrideRow) (s : State) : (lockStride r s).frm.teiCount = s.frm.teiCount :=
    rfl
@[simp] theorem lockStride_frm_ccErrors (r : StrideRow) (s : State) : (lockStride r s).frm.ccErrors = s.frm.ccErrors :=
    rfl
@[simp] theorem lockStride_frm_dupCount (r : StrideRow) (s : State) : (lockStride r s).frm.dupCount = s.frm.dupCount :=
    rfl
@[simp] theorem lockStride_frm_afErrors (r : StrideRow) (s : State) : (lockStride r s).frm.afErrors = s.frm.afErrors :=
    rfl
@[simp] theorem lockStride_frm_roleErrors (r : StrideRow) (s : State) : (lockStride r s).frm.roleErrors = s.frm.roleErrors :=
    rfl
@[simp] theorem lockStride_frm_pidCount (r : StrideRow) (s : State) : (lockStride r s).frm.pidCount = s.frm.pidCount :=
    rfl
@[simp] theorem lockStride_frm_pidtab (r : StrideRow) (s : State) : (lockStride r s).frm.pidtab = s.frm.pidtab :=
    rfl
@[simp] theorem lockStride_frm_lastpkt (r : StrideRow) (s : State) : (lockStride r s).frm.lastpkt = s.frm.lastpkt :=
    rfl
@[simp] theorem lockStride_frm_out (r : StrideRow) (s : State) : (lockStride r s).frm.out = s.frm.out := rfl
@[simp] theorem lockStride_frm_stride (r : StrideRow) (s : State) : (lockStride r s).frm.stride = r.stride := rfl
@[simp] theorem lockStride_frm_lead (r : StrideRow) (s : State) : (lockStride r s).frm.lead = r.lead := rfl
@[simp] theorem lockStride_frm_trail (r : StrideRow) (s : State) : (lockStride r s).frm.trail = r.trail := rfl
@[simp] theorem lockStride_frm_fstate (r : StrideRow) (s : State) : (lockStride r s).frm.fstate = .run := rfl

/-! ### endStep -/

@[simp] theorem endStep_crc (s : State) : (endStep s).crc = s.crc := rfl
@[simp] theorem endStep_bc (s : State) : (endStep s).bc = s.bc := rfl
@[simp] theorem endStep_cfg (s : State) : (endStep s).cfg = s.cfg := rfl
@[simp] theorem endStep_resp (s : State) : (endStep s).resp = s.resp := rfl
@[simp] theorem endStep_pidSel (s : State) : (endStep s).pidSel = s.pidSel := rfl
@[simp] theorem endStep_pidWin (s : State) : (endStep s).pidWin = s.pidWin := rfl
@[simp] theorem endStep_params (s : State) : (endStep s).params = s.params := rfl
@[simp] theorem endStep_ports (s : State) : (endStep s).ports = s.ports := rfl
@[simp] theorem endStep_frm_stride (s : State) : (endStep s).frm.stride = s.frm.stride := rfl
@[simp] theorem endStep_frm_lead (s : State) : (endStep s).frm.lead = s.frm.lead := rfl
@[simp] theorem endStep_frm_trail (s : State) : (endStep s).frm.trail = s.frm.trail := rfl
@[simp] theorem endStep_frm_pos (s : State) : (endStep s).frm.pos = s.frm.pos := rfl
@[simp] theorem endStep_frm_abortReq (s : State) : (endStep s).frm.abortReq = s.frm.abortReq := rfl
@[simp] theorem endStep_frm_pktCount (s : State) : (endStep s).frm.pktCount = s.frm.pktCount := rfl
@[simp] theorem endStep_frm_syncErrors (s : State) : (endStep s).frm.syncErrors = s.frm.syncErrors := rfl
@[simp] theorem endStep_frm_teiCount (s : State) : (endStep s).frm.teiCount = s.frm.teiCount := rfl
@[simp] theorem endStep_frm_ccErrors (s : State) : (endStep s).frm.ccErrors = s.frm.ccErrors := rfl
@[simp] theorem endStep_frm_dupCount (s : State) : (endStep s).frm.dupCount = s.frm.dupCount := rfl
@[simp] theorem endStep_frm_afErrors (s : State) : (endStep s).frm.afErrors = s.frm.afErrors := rfl
@[simp] theorem endStep_frm_roleErrors (s : State) : (endStep s).frm.roleErrors = s.frm.roleErrors := rfl
@[simp] theorem endStep_frm_pidCount (s : State) : (endStep s).frm.pidCount = s.frm.pidCount := rfl
@[simp] theorem endStep_frm_pidtab (s : State) : (endStep s).frm.pidtab = s.frm.pidtab := rfl
@[simp] theorem endStep_frm_lastpkt (s : State) : (endStep s).frm.lastpkt = s.frm.lastpkt := rfl
@[simp] theorem endStep_frm_out (s : State) : (endStep s).frm.out = s.frm.out := rfl
@[simp] theorem endStep_frm_fstate (s : State) : (endStep s).frm.fstate = .done := rfl

/-! ### abortStep -/

@[simp] theorem abortStep_crc (s : State) : (abortStep s).crc = s.crc := rfl
@[simp] theorem abortStep_bc (s : State) : (abortStep s).bc = s.bc := rfl
@[simp] theorem abortStep_cfg (s : State) : (abortStep s).cfg = s.cfg := rfl
@[simp] theorem abortStep_resp (s : State) : (abortStep s).resp = s.resp := rfl
@[simp] theorem abortStep_pidSel (s : State) : (abortStep s).pidSel = s.pidSel := rfl
@[simp] theorem abortStep_pidWin (s : State) : (abortStep s).pidWin = s.pidWin := rfl
@[simp] theorem abortStep_params (s : State) : (abortStep s).params = s.params := rfl
@[simp] theorem abortStep_ports (s : State) : (abortStep s).ports = s.ports := rfl
@[simp] theorem abortStep_frm_stride (s : State) : (abortStep s).frm.stride = s.frm.stride := rfl
@[simp] theorem abortStep_frm_lead (s : State) : (abortStep s).frm.lead = s.frm.lead := rfl
@[simp] theorem abortStep_frm_trail (s : State) : (abortStep s).frm.trail = s.frm.trail := rfl
@[simp] theorem abortStep_frm_pos (s : State) : (abortStep s).frm.pos = s.frm.pos := rfl
@[simp] theorem abortStep_frm_abortReq (s : State) : (abortStep s).frm.abortReq = s.frm.abortReq := rfl
@[simp] theorem abortStep_frm_pktCount (s : State) : (abortStep s).frm.pktCount = s.frm.pktCount := rfl
@[simp] theorem abortStep_frm_syncErrors (s : State) : (abortStep s).frm.syncErrors = s.frm.syncErrors := rfl
@[simp] theorem abortStep_frm_teiCount (s : State) : (abortStep s).frm.teiCount = s.frm.teiCount := rfl
@[simp] theorem abortStep_frm_ccErrors (s : State) : (abortStep s).frm.ccErrors = s.frm.ccErrors := rfl
@[simp] theorem abortStep_frm_dupCount (s : State) : (abortStep s).frm.dupCount = s.frm.dupCount := rfl
@[simp] theorem abortStep_frm_afErrors (s : State) : (abortStep s).frm.afErrors = s.frm.afErrors := rfl
@[simp] theorem abortStep_frm_roleErrors (s : State) : (abortStep s).frm.roleErrors = s.frm.roleErrors := rfl
@[simp] theorem abortStep_frm_pidCount (s : State) : (abortStep s).frm.pidCount = s.frm.pidCount := rfl
@[simp] theorem abortStep_frm_pidtab (s : State) : (abortStep s).frm.pidtab = s.frm.pidtab := rfl
@[simp] theorem abortStep_frm_lastpkt (s : State) : (abortStep s).frm.lastpkt = s.frm.lastpkt := rfl
@[simp] theorem abortStep_frm_out (s : State) : (abortStep s).frm.out = s.frm.out := rfl
@[simp] theorem abortStep_frm_fstate (s : State) : (abortStep s).frm.fstate = .aborted := rfl

/-! ### dropTurn -/

@[simp] theorem dropTurn_frm (s : State) : (dropTurn s).frm = s.frm := rfl
@[simp] theorem dropTurn_crc (s : State) : (dropTurn s).crc = s.crc := rfl
@[simp] theorem dropTurn_bc (s : State) : (dropTurn s).bc = s.bc := rfl
@[simp] theorem dropTurn_cfg (s : State) : (dropTurn s).cfg = s.cfg := rfl
@[simp] theorem dropTurn_resp (s : State) : (dropTurn s).resp = s.resp := rfl
@[simp] theorem dropTurn_pidSel (s : State) : (dropTurn s).pidSel = s.pidSel := rfl
@[simp] theorem dropTurn_pidWin (s : State) : (dropTurn s).pidWin = s.pidWin := rfl
@[simp] theorem dropTurn_params (s : State) : (dropTurn s).params = s.params := rfl
@[simp] theorem dropTurn_ports_stream (s : State) : (dropTurn s).ports.stream = s.ports.stream := rfl
@[simp] theorem dropTurn_ports_streamEnd (s : State) : (dropTurn s).ports.streamEnd = s.ports.streamEnd := rfl
@[simp] theorem dropTurn_ports_input (s : State) : (dropTurn s).ports.input = s.ports.input := rfl
@[simp] theorem dropTurn_ports_inputEnds (s : State) : (dropTurn s).ports.inputEnds = s.ports.inputEnds := rfl
@[simp] theorem dropTurn_ports_recPort (s : State) : (dropTurn s).ports.recPort = s.ports.recPort := rfl
@[simp] theorem dropTurn_ports_sinkGot (s : State) : (dropTurn s).ports.sinkGot = s.ports.sinkGot := rfl
@[simp] theorem dropTurn_ports_rdata (s : State) : (dropTurn s).ports.rdata = s.ports.rdata := rfl
@[simp] theorem dropTurn_ports_turns (s : State) : (dropTurn s).ports.turns = s.ports.turns.tail := rfl

/-! ### Events -/

@[simp] theorem raiseEvent_bc (e : Event) (s : State) : (raiseEvent e s).bc = s.bc := by cases e <;> rfl
@[simp] theorem raiseEvent_cfg (e : Event) (s : State) : (raiseEvent e s).cfg = s.cfg := by cases e <;> rfl
@[simp] theorem raiseEvent_resp (e : Event) (s : State) : (raiseEvent e s).resp = s.resp := by cases e <;> rfl
@[simp] theorem raiseEvent_pidSel (e : Event) (s : State) : (raiseEvent e s).pidSel = s.pidSel := by cases e <;> rfl
@[simp] theorem raiseEvent_pidWin (e : Event) (s : State) : (raiseEvent e s).pidWin = s.pidWin := by cases e <;> rfl
@[simp] theorem raiseEvent_params (e : Event) (s : State) : (raiseEvent e s).params = s.params := by cases e <;> rfl
@[simp] theorem raiseEvent_ports (e : Event) (s : State) : (raiseEvent e s).ports = s.ports := by cases e <;> rfl
@[simp] theorem raiseEvent_frm_stride (e : Event) (s : State) : (raiseEvent e s).frm.stride = s.frm.stride := by
  cases e <;> rfl
@[simp] theorem raiseEvent_frm_lead (e : Event) (s : State) : (raiseEvent e s).frm.lead = s.frm.lead := by
  cases e <;> rfl
@[simp] theorem raiseEvent_frm_trail (e : Event) (s : State) : (raiseEvent e s).frm.trail = s.frm.trail := by
  cases e <;> rfl
@[simp] theorem raiseEvent_frm_pos (e : Event) (s : State) : (raiseEvent e s).frm.pos = s.frm.pos := by
  cases e <;> rfl
@[simp] theorem raiseEvent_frm_abortReq (e : Event) (s : State) :
    (raiseEvent e s).frm.abortReq = s.frm.abortReq := by cases e <;> rfl
@[simp] theorem raiseEvent_frm_pktCount (e : Event) (s : State) :
    (raiseEvent e s).frm.pktCount = s.frm.pktCount := by cases e <;> rfl
@[simp] theorem raiseEvent_frm_pidCount (e : Event) (s : State) :
    (raiseEvent e s).frm.pidCount = s.frm.pidCount := by cases e <;> rfl
@[simp] theorem raiseEvent_frm_lastpkt (e : Event) (s : State) :
    (raiseEvent e s).frm.lastpkt = s.frm.lastpkt := by cases e <;> rfl
@[simp] theorem raiseEvent_frm_out (e : Event) (s : State) : (raiseEvent e s).frm.out = s.frm.out := by
  cases e <;> rfl
@[simp] theorem raiseEvent_crcMismatch_frm (s : State) : (raiseEvent .crcMismatch s).frm = s.frm := rfl

end Sys2Proof.Machine
end

