-- ==== Sys2Proof/Laws/Maps.lean ====
section
/-! SUPPORT. Sparse maps: read after write, and the canonical form every write keeps. -/

namespace Sys2Proof.Machine

open Sys2Proof

variable {α : Type}

theorem SMap.get_put (d : α) (m : SMap α) (k k' : Nat) (v : α) :
    SMap.get d (SMap.put m k v) k' = if k' = k then v else SMap.get d m k' := by
  induction m with
  | nil => simp [SMap.put, SMap.get]
  | cons e m ih =>
    obtain ⟨a, w⟩ := e
    simp only [SMap.put]
    by_cases h1 : k < a
    · simp [h1, SMap.get]
    · by_cases h2 : k = a
      · by_cases h : k' = k <;> simp_all [SMap.get]
      · by_cases h : k' = a
        · have : a ≠ k := fun h => h2 h.symm
          simp [h1, h2, SMap.get, h, this]
        · simp [h1, h2, SMap.get, h, ih]

theorem SMap.get_del (d : α) (m : SMap α) (k k' : Nat) :
    SMap.get d (SMap.del m k) k' = if k' = k then d else SMap.get d m k' := by
  induction m with
  | nil => simp [SMap.del, SMap.get]
  | cons e m ih =>
    obtain ⟨a, w⟩ := e
    simp only [SMap.del]
    by_cases h1 : k = a
    · by_cases h : k' = k <;> simp_all [SMap.get]
    · by_cases h : k' = a
      · have : a ≠ k := fun h => h1 h.symm
        simp [h1, SMap.get, h, this]
      · simp [h1, SMap.get, h, ih]

theorem SMap.mem_put (m : SMap α) (k : Nat) (v : α) (e : Nat × α) (h : e ∈ SMap.put m k v) : e = (k, v) ∨ e ∈ m := by
  induction m with
  | nil => simpa [SMap.put] using h
  | cons e' m ih =>
    obtain ⟨a, w⟩ := e'
    simp only [SMap.put] at h
    split_ifs at h with h1 h2
    · simpa using h
    · rcases List.mem_cons.1 h with h | h
      · exact .inl h
      · exact .inr (by simp [h])
    · rcases List.mem_cons.1 h with h | h
      · exact .inr (by simp [h])
      · rcases ih h with h | h
        · exact .inl h
        · exact .inr (by simp [h])

theorem SMap.mem_del (m : SMap α) (k : Nat) (e : Nat × α) (h : e ∈ SMap.del m k) : e ∈ m := by
  induction m with
  | nil => simp [SMap.del] at h
  | cons e' m ih =>
    obtain ⟨a, w⟩ := e'
    simp only [SMap.del] at h
    split_ifs at h with h1
    · simp [ih h]
    · rcases List.mem_cons.1 h with h | h
      · simp [h]
      · simp [ih h]

theorem SMap.keys_put (m : SMap α) (k : Nat) (v : α) (h : (m.map Prod.fst).Pairwise (· < ·)) :
    ((SMap.put m k v).map Prod.fst).Pairwise (· < ·) := by
  induction m with
  | nil => simp [SMap.put]
  | cons e m ih =>
    obtain ⟨a, w⟩ := e
    have h' := h
    rw [List.map_cons, List.pairwise_cons] at h'
    simp only [SMap.put]
    split_ifs with h1 h2
    · rw [List.map_cons, List.pairwise_cons]
      refine ⟨fun x hx => ?_, h⟩
      rcases List.mem_cons.1 hx with hx | hx
      · omega
      · have := h'.1 x hx
        omega
    · subst h2
      simpa using h
    · rw [List.map_cons, List.pairwise_cons]
      refine ⟨fun x hx => ?_, ih h'.2⟩
      obtain ⟨e, he, rfl⟩ := List.mem_map.1 hx
      rcases SMap.mem_put m k v e he with rfl | he
      · simp only
        omega
      · exact h'.1 e.1 (List.mem_map_of_mem he)

theorem SMap.keys_del (m : SMap α) (k : Nat) (h : (m.map Prod.fst).Pairwise (· < ·)) :
    ((SMap.del m k).map Prod.fst).Pairwise (· < ·) := by
  induction m with
  | nil => simp [SMap.del]
  | cons e m ih =>
    obtain ⟨a, w⟩ := e
    rw [List.map_cons, List.pairwise_cons] at h
    simp only [SMap.del]
    split_ifs with h1
    · exact ih h.2
    · rw [List.map_cons, List.pairwise_cons]
      refine ⟨fun x hx => ?_, ih h.2⟩
      obtain ⟨e, he, rfl⟩ := List.mem_map.1 hx
      exact h.1 e.1 (List.mem_map_of_mem (SMap.mem_del m k e he))

/-- A write is read back and leaves every other key alone, in every map. -/
theorem SMap.get_set [DecidableEq α] (d : α) (m : SMap α) (k k' : Nat) (v : α) :
    SMap.get d (SMap.set d m k v) k' = if k' = k then v else SMap.get d m k' := by
  unfold SMap.set
  by_cases h : v = d <;> simp [h, SMap.get_del, SMap.get_put]

/-- A write keeps the canonical form. -/
theorem SMap.wf_set [DecidableEq α] (d : α) (m : SMap α) (k : Nat) (v : α) (h : SMap.wf d m) :
    SMap.wf d (SMap.set d m k v) := by
  unfold SMap.set
  split_ifs with h1
  · exact ⟨SMap.keys_del m k h.1, fun e he => h.2 e (SMap.mem_del m k e he)⟩
  · refine ⟨SMap.keys_put m k v h.1, fun e he => ?_⟩
    rcases SMap.mem_put m k v e he with rfl | he
    · exact h1
    · exact h.2 e he

/-- What a written map lists was listed before or is what was written. -/
theorem SMap.mem_set [DecidableEq α] (d : α) (m : SMap α) (k : Nat) (v : α) (e : Nat × α)
    (h : e ∈ SMap.set d m k v) : e = (k, v) ∨ e ∈ m := by
  unfold SMap.set at h
  split_ifs at h
  · exact .inr (SMap.mem_del m k e h)
  · exact SMap.mem_put m k v e h

/-- Every operation on a byte memory keeps the canonical form. -/
theorem Memory.wf_write (m : Memory) (a : Nat) (v : Byte) (h : m.wf) : (m.write a v).wf :=
  SMap.wf_set _ m a v h

/-- Read after write. -/
theorem Memory.read_write (m : Memory) (a a' : Nat) (v : Byte) :
    (m.write a v).read a' = if a' = a then v else m.read a' :=
  SMap.get_set _ m a a' v

end Sys2Proof.Machine
end

