-- ==== Sys2Proof/Laws/Ops.lean ====
section
/-! SUPPORT. One lemma per shared operation, saying what it can do: the reads of PIDTAB, LASTPKT and BUF after each update,
the transfers of a record, the moves of the source, the unit a packet form runs on, the continuity verdict. -/

namespace Sys2Proof.Machine

open Sys2Proof

/-! ## Reads after updates -/

theorem pid_toNat_inj {p q : Pid} : p.toNat = q.toNat ↔ p = q := BitVec.toNat_inj

theorem pidRead_pidUpdate (pid q : Pid) (f : PidRec → PidRec) (s : State) :
    pidRead (pidUpdate pid f s) q = if q = pid then f (pidRead s pid) else pidRead s q := by
  simp only [pidRead, pidUpdate_frm_pidtab, SMap.get_set, pid_toNat_inj]

@[simp] theorem pidRead_pidUpdate_self (pid : Pid) (f : PidRec → PidRec) (s : State) :
    pidRead (pidUpdate pid f s) pid = f (pidRead s pid) := by simp [pidRead_pidUpdate]

theorem pidRead_pidUpdate_ne {pid q : Pid} (f : PidRec → PidRec) (s : State) (h : q ≠ pid) :
    pidRead (pidUpdate pid f s) q = pidRead s q := by simp [pidRead_pidUpdate, h]

/-- PIDTAB decides every record. -/
theorem pidRead_congr {s t : State} (h : t.frm.pidtab = s.frm.pidtab) (pid : Pid) : pidRead t pid = pidRead s pid := by
  simp [pidRead, h]

/-- LASTPKT decides every store. -/
theorem lastRead_congr {s t : State} (h : t.frm.lastpkt = s.frm.lastpkt) (pid : Pid) :
    lastRead t pid = lastRead s pid := by simp [lastRead, h]

theorem lastRead_lastWrite (pid q : Pid) (p : List Byte) (s : State) :
    lastRead (lastWrite pid p s) q = if q = pid then p else lastRead s q := by
  simp only [lastRead, lastWrite_frm_lastpkt, SMap.get_set, pid_toNat_inj]

@[simp] theorem pidRead_lastWrite (pid q : Pid) (p : List Byte) (s : State) :
    pidRead (lastWrite pid p s) q = pidRead s q := rfl
@[simp] theorem pidRead_advance (q : Pid) (s : State) : pidRead (advance s) q = pidRead s q := rfl
@[simp] theorem pidRead_emit (r : Record) (q : Pid) (s : State) : pidRead (emit r s) q = pidRead s q := rfl
@[simp] theorem lastRead_pidUpdate (pid q : Pid) (f : PidRec → PidRec) (s : State) :
    lastRead (pidUpdate pid f s) q = lastRead s q := rfl
@[simp] theorem lastRead_advance (q : Pid) (s : State) : lastRead (advance s) q = lastRead s q := rfl
@[simp] theorem lastRead_emit (r : Record) (q : Pid) (s : State) : lastRead (emit r s) q = lastRead s q := rfl
@[simp] theorem lastRead_raiseEvent (e : Event) (q : Pid) (s : State) :
    lastRead (raiseEvent e s) q = lastRead s q := by cases e <;> rfl
@[simp] theorem lastRead_touchPid (pid q : Pid) (s : State) : lastRead (touchPid pid s) q = lastRead s q := rfl
@[simp] theorem lastRead_countAf (pid q : Pid) (af : AfInfo) (s : State) :
    lastRead (countAf pid af s) q = lastRead s q := by unfold countAf; split <;> simp

/-- R203 read back. -/
theorem lastRead_remember (pid q : Pid) (cc : BitVec 4) (p : List Byte) (s : State) :
    lastRead (remember pid cc p s) q = if q = pid then p else lastRead s q := by
  simp [remember, lastRead_lastWrite]

/-- Read after write in BUF. -/
theorem bufRead_of_write {s t : State} {a : Nat} {b : Byte} (h : t.bc.buf = s.bc.buf.write a b) (a' : Nat) :
    bufRead t a' = if a' = a then b else bufRead s a' := by
  simp [bufRead, h, Memory.read_write]

/-! ## The record output and the stream input -/

/-- The header signals carry the record (R126). -/
theorem signalsOf_header (r : Record) : SignalsOf r r.header := by
  refine ⟨?_, ?_, ?_, ?_, ?_, ?_, rfl, rfl, rfl, rfl, rfl, rfl, rfl, rfl, rfl, rfl, rfl, rfl, rfl, rfl, rfl, rfl, rfl, rfl,
    rfl, rfl, rfl, rfl, rfl, rfl⟩
  all_goals
    intro h
    simp [Record.header, h, kindCode, roleCode]

@[simp] theorem length_dataBeats (bs : List Byte) : (dataBeats bs).length = bs.length := by
  induction bs with
  | nil => rfl
  | cons b bs ih => simp [dataBeats, ih]

/-- The payload beats in order, rec_plast on the last (R76). -/
theorem getElem?_dataBeats {bs : List Byte} {j : Nat} {b : Byte} (h : bs[j]? = some b) :
    (dataBeats bs)[j]? = some (.data b (decide (j + 1 = bs.length))) := by
  induction bs generalizing j with
  | nil => simp at h
  | cons c cs ih =>
    cases j with
    | zero =>
      obtain rfl : c = b := by simpa using h
      cases cs <;> simp [dataBeats]
    | succ j =>
      have h' : cs[j]? = some b := by simpa using h
      simp [dataBeats, ih h']

/-- What a move of the source does (R70, R72, R322, R326). -/
theorem sourceStep_cases (n : Nat) (s : State) :
    (inReady s = false ∨ s.ports.input.take n = []) ∧ sourceStep n s = s ∨
    inReady s = true ∧ s.ports.input.take n ≠ [] ∧
      ∃ last, (last = true ↔ s.ports.inputEnds = true ∧ s.ports.input.drop n = []) ∧
        sourceStep n s = { s with
          ports.stream := s.ports.stream ++ s.ports.input.take n, ports.input := s.ports.input.drop n
          ports.streamEnd := last, ports.inputEnds := s.ports.inputEnds && !last } := by
  unfold sourceStep
  by_cases h1 : inReady s = true
  · by_cases h2 : s.ports.input.take n = []
    · exact .inl ⟨.inr h2, by simp [h1, h2]⟩
    · refine .inr ⟨h1, h2, s.ports.inputEnds && (s.ports.input.drop n).isEmpty, by simp, ?_⟩
      rw [if_pos (by simpa [h1] using h2)]
  · exact .inl ⟨.inl (by simpa using h1), by simp [h1]⟩

/-- in_ready (R162, R322). -/
theorem inReady_iff (s : State) :
    inReady s = true ↔ (s.frm.fstate = .probe ∨ s.frm.fstate = .run) ∧ s.ports.streamEnd = false := by
  simp [inReady]

/-- in_empty (R70). -/
theorem inEmpty_iff (s : State) : inEmpty s = true ↔ s.ports.input = [] ∧ s.ports.inputEnds = true := by
  simp [inEmpty]

/-! ## The unit a packet form runs on -/

/-- The core of the unit at POS is found exactly when the unit has arrived and is long enough. -/
theorem fetchCore_eq_some_iff (s : State) (p : List Byte) : fetchCore s = some p ↔ CoreAt s p := by
  unfold fetchCore CoreAt streamRead leadBytes pktLen
  have hl : (if s.frm.lead = true then 4 else 0) = 4 * s.frm.lead.toNat := by cases s.frm.lead <;> rfl
  by_cases hfit : s.frm.pos.toNat + s.frm.stride.toNat ≤ s.ports.stream.length
  · simp only [hfit, ↓reduceIte, true_and]
    by_cases hlen : 4 * s.frm.lead.toNat + 188 ≤ s.frm.stride.toNat
    · have hlen' : ((((s.ports.stream.drop s.frm.pos.toNat).take s.frm.stride.toNat).drop
          (if s.frm.lead = true then 4 else 0)).take 188).length = 188 := by
        simp only [List.length_take, List.length_drop, hl]
        omega
      rw [if_pos hlen']
      simp only [Option.some.injEq, hlen, true_and]
      constructor
      · rintro rfl
        refine ⟨hlen', fun i hi => ?_⟩
        rw [List.getElem?_take, if_pos hi, List.getElem?_drop, List.getElem?_take, hl,
          if_pos (by omega), List.getElem?_drop, Nat.add_assoc]
      · rintro ⟨h188, hget⟩
        apply List.ext_getElem?
        intro i
        by_cases hi : i < 188
        · rw [hget i hi, List.getElem?_take, if_pos hi, List.getElem?_drop, List.getElem?_take, hl,
            if_pos (by omega), List.getElem?_drop, Nat.add_assoc]
        · rw [List.getElem?_eq_none (by omega), List.getElem?_eq_none (by omega)]
    · have hlen' : ¬ ((((s.ports.stream.drop s.frm.pos.toNat).take s.frm.stride.toNat).drop
          (if s.frm.lead = true then 4 else 0)).take 188).length = 188 := by
        simp only [List.length_take, List.length_drop, hl]
        omega
      rw [if_neg hlen']
      simp [hlen]
  · simp [hfit]

/-- A packet form answers a next state exactly on a unit that has arrived, and then its effect is that of its form. -/
theorem onUnit_eq_next (f : List Byte → State → State) (s : State) (p : List Byte) (h : CoreAt s p) :
    onUnit f s = .next (f p s) := by
  simp [onUnit, (fetchCore_eq_some_iff s p).2 h]

theorem onUnit_cases {f : List Byte → State → State} {s t : State} (h : onUnit f s = .next t) :
    ∃ p, CoreAt s p ∧ t = f p s := by
  unfold onUnit at h
  split at h
  · next p hp => exact ⟨p, (fetchCore_eq_some_iff s p).1 hp, (Host.Outcome.next.inj h).symm⟩
  · exact absurd h (by simp)

/-! ## The continuity verdict -/

/-- R198 and R200, case by case. -/
theorem continuity_cases (hasPayload di : Bool) (x : PidRec) (cc : BitVec 4) (p last : List Byte) :
    (¬ (hasPayload = true ∧ di = false ∧ x.hasCc = true) ∧ continuity hasPayload di x cc p last = .unchecked) ∨
    ((hasPayload = true ∧ di = false ∧ x.hasCc = true) ∧
      ((cc = x.lastCc + 1 ∧ continuity hasPayload di x cc p last = .inSequence) ∨
       (cc ≠ x.lastCc + 1 ∧ (cc = x.lastCc ∧ p = last ∧ x.dupSeen = false) ∧
          continuity hasPayload di x cc p last = .duplicate) ∨
       (cc ≠ x.lastCc + 1 ∧ ¬ (cc = x.lastCc ∧ p = last ∧ x.dupSeen = false) ∧
          continuity hasPayload di x cc p last = .error))) := by
  unfold continuity
  by_cases hc : hasPayload = true ∧ di = false ∧ x.hasCc = true
  · right
    obtain ⟨h1, h2, h3⟩ := hc
    refine ⟨⟨h1, h2, h3⟩, ?_⟩
    rw [if_pos (by simp [h1, h2, h3])]
    by_cases ha : cc = x.lastCc + 1
    · exact .inl ⟨ha, if_pos ha⟩
    · rw [if_neg ha]
      by_cases hb : cc = x.lastCc ∧ p = last ∧ x.dupSeen = false
      · exact .inr (.inl ⟨ha, hb, if_pos hb⟩)
      · exact .inr (.inr ⟨ha, hb, if_neg hb⟩)
  · left
    refine ⟨hc, ?_⟩
    have : (hasPayload && !di && x.hasCc) = false := by
      cases hasPayload <;> cases di <;> cases h : x.hasCc <;> simp_all
    simp [this]

end Sys2Proof.Machine
end

