-- ==== Sys2Proof/Laws/Cursor.lean ====
section
/-! SUPPORT. The bit cursor: what the scan for leading zeros and the codeword reader answer (R258), the values of bit strings
(R251), what depends on loaded bytes only, and the effect of every command of the unit (R250). -/

namespace Sys2Proof.Machine

open Sys2Proof

/-! ## Bit strings -/

/-- R256 (a): an n-bit value. -/
theorem bitsVal_lt (s : State) (a n : Nat) : bitsVal s a n < 2 ^ n := by
  induction n with
  | zero => simp [bitsVal]
  | succ n ih =>
    have := (bitAt s (a + n)).toNat_lt
    simp only [bitsVal, Nat.pow_succ]
    omega

/-- R256 (b): a bit string splits anywhere. -/
theorem bitsVal_add (s : State) (a n m : Nat) :
    bitsVal s a (n + m) = bitsVal s a n * 2 ^ m + bitsVal s (a + n) m := by
  induction m with
  | zero => simp [bitsVal]
  | succ m ih =>
    rw [← Nat.add_assoc]
    simp only [bitsVal, ih, Nat.pow_succ, Nat.add_assoc]
    ring

/-- A string of zeros is 0. -/
theorem bitsVal_eq_zero (s : State) (a n : Nat) (h : ∀ j, j < n → bitAt s (a + j) = false) : bitsVal s a n = 0 := by
  induction n with
  | zero => rfl
  | succ n ih => simp [bitsVal, ih fun j hj => h j (by omega), h n (by omega)]

/-- Bits depend on the bytes they lie in. -/
theorem bitAt_congr {s t : State} {i : Nat} (h : bufRead t (i / 8) = bufRead s (i / 8)) : bitAt t i = bitAt s i := by
  simp [bitAt, h]

theorem bitsVal_congr {s t : State} {a n : Nat} (h : ∀ j, j < n → bitAt t (a + j) = bitAt s (a + j)) :
    bitsVal t a n = bitsVal s a n := by
  induction n with
  | zero => rfl
  | succ n ih => simp only [bitsVal, ih fun j hj => h j (by omega), h n (by omega)]

/-! ## The scan and the codeword -/

/-- The scan finds k: k zeros inside the buffer, then a 1 inside it. -/
theorem scanZeros_eq_ok_iff (s : State) (fuel j k : Nat) :
    scanZeros s fuel j = .ok k ↔
      j ≤ k ∧ k < j + fuel ∧ (∀ i, j ≤ i → i < k → bitAt s (s.bc.bitPos + i) = false) ∧
        bitAt s (s.bc.bitPos + k) = true ∧ s.bc.bitPos + k < nbits s := by
  induction fuel generalizing j with
  | zero =>
    simp only [scanZeros, reduceCtorEq, false_iff]
    omega
  | succ fuel ih =>
    simp only [scanZeros]
    by_cases h1 : nbits s ≤ s.bc.bitPos + j
    · simp only [h1, ↓reduceIte, reduceCtorEq, false_iff]
      omega
    · by_cases h2 : bitAt s (s.bc.bitPos + j) = true
      · simp only [h1, h2, ↓reduceIte, Except.ok.injEq]
        constructor
        · rintro rfl
          exact ⟨le_rfl, by omega, by omega, h2, by omega⟩
        · rintro ⟨hjk, -, hz, -, -⟩
          by_contra hne
          simp [hz j le_rfl (by omega)] at h2
      · simp only [h1, h2, ↓reduceIte, ih, Bool.false_eq_true]
        constructor
        · rintro ⟨hjk, hlt, hz, hone, hin⟩
          refine ⟨by omega, by omega, fun i hi hik => ?_, hone, hin⟩
          by_cases hij : i = j
          · simpa [hij] using h2
          · exact hz i (by omega) hik
        · rintro ⟨hjk, hlt, hz, hone, hin⟩
          have : j ≠ k := fun h => h2 (h ▸ hone)
          exact ⟨by omega, by omega, fun i hi hik => hz i (by omega) hik, hone, hin⟩

/-- The scan leaves the buffer: zeros up to its end. -/
theorem scanZeros_eq_bounds (s : State) (fuel j k : Nat) (hjk : j ≤ k) (hk : k < j + fuel)
    (hz : ∀ i, j ≤ i → i < k → s.bc.bitPos + i < nbits s ∧ bitAt s (s.bc.bitPos + i) = false)
    (hend : nbits s ≤ s.bc.bitPos + k) : scanZeros s fuel j = .error .bcBounds := by
  induction fuel generalizing j with
  | zero => omega
  | succ fuel ih =>
    simp only [scanZeros]
    by_cases h1 : nbits s ≤ s.bc.bitPos + j
    · simp [h1]
    · have hj : j ≠ k := fun h => h1 (h ▸ hend)
      simp only [h1, (hz j le_rfl (by omega)).2, ↓reduceIte, Bool.false_eq_true]
      exact ih (j + 1) (by omega) (by omega) fun i hi hik => hz i (by omega) hik

/-- The scan runs out of admitted bits: all zeros. -/
theorem scanZeros_eq_tooLong (s : State) (fuel j : Nat)
    (hz : ∀ i, j ≤ i → i < j + fuel → s.bc.bitPos + i < nbits s ∧ bitAt s (s.bc.bitPos + i) = false) :
    scanZeros s fuel j = .error .bcCodeTooLong := by
  induction fuel generalizing j with
  | zero => rfl
  | succ fuel ih =>
    have := hz j le_rfl (by omega)
    simp only [scanZeros, this.2, Nat.not_le.2 this.1, ↓reduceIte, Bool.false_eq_true]
    exact ih (j + 1) fun i hi hlt => hz i (by omega) (by omega)

/-- The two failures of the scan. -/
theorem scanZeros_error {s : State} {fuel j : Nat} {c : Cause} (h : scanZeros s fuel j = .error c) :
    c = .bcBounds ∨ c = .bcCodeTooLong := by
  induction fuel generalizing j with
  | zero => simp_all [scanZeros]
  | succ fuel ih =>
    simp only [scanZeros] at h
    split_ifs at h with h1 h2
    · simp_all
    · exact ih h

/-- A codeword is read exactly when it lies whole inside the buffer: k zeros, a 1, k more bits (R258). -/
theorem readCodeword_eq_ok_iff (s : State) (w : Codeword) :
    readCodeword s = .ok w ↔ ∃ k, k < 32 ∧ (∀ i, i < k → bitAt s (s.bc.bitPos + i) = false) ∧
      bitAt s (s.bc.bitPos + k) = true ∧ s.bc.bitPos + 2 * k + 1 ≤ nbits s ∧
      w = { value := 2 ^ k - 1 + bitsVal s (s.bc.bitPos + k + 1) k, width := 2 * k + 1 } := by
  unfold readCodeword
  constructor
  · intro h
    split at h
    · simp at h
    · next k hk =>
      obtain ⟨-, hlt, hz, hone, -⟩ := (scanZeros_eq_ok_iff s 32 0 k).1 hk
      split_ifs at h with hb
      exact ⟨k, by omega, fun i hi => hz i (by omega) hi, hone, by omega, (Except.ok.inj h).symm⟩
  · rintro ⟨k, hlt, hz, hone, hb, rfl⟩
    rw [(scanZeros_eq_ok_iff s 32 0 k).2 ⟨by omega, by omega, fun i _ hi => hz i hi, hone, by omega⟩]
    simp [Nat.not_lt.2 hb]

/-- The two failures of the codeword reader. -/
theorem readCodeword_error {s : State} {c : Cause} (h : readCodeword s = .error c) :
    c = .bcBounds ∨ c = .bcCodeTooLong := by
  unfold readCodeword at h
  split at h
  · next hz => simp only [Except.error.injEq] at h; exact h ▸ scanZeros_error hz
  · split_ifs at h; simp_all

/-- The unsigned value has 32 bits (R259). -/
theorem readCodeword_value_lt {s : State} {w : Codeword} (h : readCodeword s = .ok w) :
    w.value < 2 ^ 32 - 1 ∧ s.bc.bitPos + w.width ≤ nbits s := by
  obtain ⟨k, hk, -, -, hb, rfl⟩ := (readCodeword_eq_ok_iff s w).1 h
  have h1 := bitsVal_lt s (s.bc.bitPos + k + 1) k
  have h2 : 2 ^ k ≤ 2 ^ 31 := Nat.pow_le_pow_right (by omega) (by omega)
  constructor
  · simp only
    omega
  · simp only
    omega

/-- What the reader answers depends on the length, the position and the loaded bytes only (R265). -/
theorem readCodeword_congr_loaded {s t : State} (hl : t.bc.bufLen = s.bc.bufLen) (hp : t.bc.bitPos = s.bc.bitPos)
    (hb : ∀ a, a < s.bc.bufLen → bufRead t a = bufRead s a) : readCodeword t = readCodeword s := by
  have hn : nbits t = nbits s := by simp [nbits, hl]
  have hbit : ∀ j, j < nbits s → bitAt t j = bitAt s j := fun j hj => bitAt_congr (hb _ (by unfold nbits at hj; omega))
  have hz : ∀ f j, scanZeros t f j = scanZeros s f j := by
    intro f
    induction f with
    | zero => intro; rfl
    | succ f ih =>
      intro j
      simp only [scanZeros, ih, hn, hp]
      by_cases h : nbits s ≤ s.bc.bitPos + j
      · simp [h]
      · simp only [h, ↓reduceIte, hbit _ (Nat.not_le.1 h)]
  unfold readCodeword
  rw [hz]
  split
  · rfl
  · next k _ =>
    rw [hn, hp]
    split_ifs with h
    · rfl
    · rw [bitsVal_congr fun j _ => hbit _ (by omega)]

/-- What the reader answers depends on the cursor's state only. -/
theorem readCodeword_congr {s t : State} (h : t.bc = s.bc) : readCodeword t = readCodeword s :=
  readCodeword_congr_loaded (by rw [h]) (by rw [h]) fun a _ => by simp [bufRead, h]

/-! ## The commands -/

/-- R250: what any command of the unit can do. -/
theorem exec_bc_cases (i : Instr) (s : State) (hi : isBcCmd i = true) :
    (∃ opc c, c ≠ .none ∧ exec i s = .next (bcFail opc c s)) ∨
    (∃ opc v n, s.bc.bitPos + n ≤ nbits s ∧
      exec i s = .next (respondOk opc v { s with bc.bitPos := s.bc.bitPos + n })) ∨
    (∃ v, i = .bcRem ∧ exec i s = .next (respondOk opcBcRem v s)) ∨
    (i = .bcClear ∧ exec i s = .next (respondOk opcBcClear 0
      { s with bc.bufLen := 0, bc.bitPos := 0, bc.errSticky := false, bc.lastCause := .none })) ∨
    (∃ b, i = .bcPush b ∧ s.bc.bufLen ≠ s.params.bcBufBytes ∧
      exec i s = .next (respondOk opcBcPush (BitVec.ofNat 32 (s.bc.bufLen + 1))
        { s with bc.buf := s.bc.buf.write s.bc.bufLen b, bc.bufLen := s.bc.bufLen + 1 })) ∨
    (i = .bcAlign ∧ exec i s = .next (respondOk opcBcAlign 0 { s with bc.bitPos := 8 * ((s.bc.bitPos + 7) / 8) })) := by
  have hw : ∀ c, readCodeword s = .error c → c ≠ .none := fun c h => by
    rcases readCodeword_error h with rfl | rfl <;> simp
  cases i with
  | bcClear => exact .inr (.inr (.inr (.inl ⟨rfl, rfl⟩)))
  | bcAlign => exact .inr (.inr (.inr (.inr (.inr ⟨rfl, rfl⟩))))
  | bcRem => exact .inr (.inr (.inl ⟨_, rfl, rfl⟩))
  | bcPush b =>
    by_cases h : s.bc.bufLen = s.params.bcBufBytes
    · exact .inl ⟨opcBcPush, .bcFull, by simp, by simp [exec, execBcPush, h]⟩
    · exact .inr (.inr (.inr (.inr (.inl ⟨b, rfl, h, by simp [exec, execBcPush, h]⟩))))
  | bcRdu n =>
    by_cases h : n.toNat < 1 ∨ 32 < n.toNat
    · exact .inl ⟨opcBcRdu, .bcWidth, by simp, if_pos h⟩
    · by_cases h2 : nbits s < s.bc.bitPos + n.toNat
      · exact .inl ⟨opcBcRdu, .bcBounds, by simp, (if_neg h).trans (if_pos h2)⟩
      · exact .inr (.inl ⟨opcBcRdu, _, n.toNat, by omega, (if_neg h).trans (if_neg h2)⟩)
  | bcRdue =>
    cases h : readCodeword s with
    | error c => exact .inl ⟨opcBcRdue, c, hw c h, by simp only [exec, execBcRdue, h]⟩
    | ok w =>
      exact .inr (.inl ⟨opcBcRdue, BitVec.ofNat 32 w.value, w.width, (readCodeword_value_lt h).2,
        by simp only [exec, execBcRdue, h]⟩)
  | bcRdse =>
    cases h : readCodeword s with
    | error c => exact .inl ⟨opcBcRdse, c, hw c h, by simp only [exec, execBcRdse, h]⟩
    | ok w =>
      exact .inr (.inl ⟨opcBcRdse, BitVec.ofInt 32 (signedOf w.value), w.width, (readCodeword_value_lt h).2,
        by simp only [exec, execBcRdse, h]⟩)
  | sysReset | frmStart | frmAbort | crcInit | crcByte | crcCheck => simp [isBcCmd] at hi
  | tspTei | tspRsv | tspPay | tspAf | tspAfpay | tspNosync => simp [isBcCmd] at hi

end Sys2Proof.Machine
end

