-- ==== Sys2Proof/Laws/Packet.lean ====
section
/-! SUPPORT. The packet step: what each part of a routed packet's step does to PIDTAB, LASTPKT and the counters, what the
whole step does, and which of the six forms a header word runs. -/

namespace Sys2Proof.Machine

open Sys2Proof

/-! ## What the parts leave alone -/

/-- Nothing changes but PIDTAB, LASTPKT and the counters of routed packets. -/
def OnlyPidState (s t : State) : Prop :=
  t = { s with
    frm.pidtab := t.frm.pidtab, frm.lastpkt := t.frm.lastpkt, frm.pidCount := t.frm.pidCount
    frm.afErrors := t.frm.afErrors, frm.ccErrors := t.frm.ccErrors, frm.dupCount := t.frm.dupCount
    frm.roleErrors := t.frm.roleErrors }

theorem OnlyPidState.refl (s : State) : OnlyPidState s s := rfl

theorem OnlyPidState.trans {s t u : State} (h : OnlyPidState s t) (h' : OnlyPidState t u) : OnlyPidState s u := by
  unfold OnlyPidState at *
  rw [h'] at *
  rw [h] at *

theorem touchPid_only (pid : Pid) (s : State) : OnlyPidState s (touchPid pid s) := rfl

theorem countAf_only (pid : Pid) (af : AfInfo) (s : State) : OnlyPidState s (countAf pid af s) := by
  unfold countAf
  split <;> rfl

theorem remember_only (pid : Pid) (cc : BitVec 4) (p : List Byte) (s : State) : OnlyPidState s (remember pid cc p s) := rfl

theorem applyVerdict_only (v : Verdict) (h : Hdr) (p : List Byte) (s : State) :
    OnlyPidState s (applyVerdict v h p s) := by
  cases v <;> rfl

theorem applyRole_only (e : Bool) (cls : Role) (pid : Pid) (s : State) : OnlyPidState s (applyRole e cls pid s) := by
  unfold applyRole
  split_ifs <;> rfl

/-! ## What the parts do to the records -/

theorem touchPid_spec (pid : Pid) (s : State) :
    (∀ q, pidRead (touchPid pid s) q =
      if q = pid then { pidRead s pid with valid := true, pktCnt := (pidRead s pid).pktCnt + 1 } else pidRead s q) ∧
    (touchPid pid s).frm.pidCount = s.frm.pidCount + (if (pidRead s pid).valid then 0 else 1) ∧
    (touchPid pid s).frm.afErrors = s.frm.afErrors ∧ (touchPid pid s).frm.ccErrors = s.frm.ccErrors ∧
    (touchPid pid s).frm.dupCount = s.frm.dupCount ∧ (touchPid pid s).frm.roleErrors = s.frm.roleErrors ∧
    (touchPid pid s).frm.lastpkt = s.frm.lastpkt := by
  refine ⟨fun q => ?_, rfl, rfl, rfl, rfl, rfl, rfl⟩
  simp only [touchPid, pidRead_pidUpdate]
  rfl

theorem countAf_spec (pid : Pid) (af : AfInfo) (s : State) :
    (∀ q, pidRead (countAf pid af s) q =
      if q = pid then { pidRead s pid with afErrCnt := (pidRead s pid).afErrCnt + (if af.err then 1 else 0) }
      else pidRead s q) ∧
    (countAf pid af s).frm.afErrors = s.frm.afErrors + (if af.err then 1 else 0) ∧
    (countAf pid af s).frm.pidCount = s.frm.pidCount ∧ (countAf pid af s).frm.ccErrors = s.frm.ccErrors ∧
    (countAf pid af s).frm.dupCount = s.frm.dupCount ∧ (countAf pid af s).frm.roleErrors = s.frm.roleErrors ∧
    (countAf pid af s).frm.lastpkt = s.frm.lastpkt := by
  unfold countAf
  cases h : af.err
  · refine ⟨fun q => ?_, by simp, rfl, rfl, rfl, rfl, rfl⟩
    by_cases hq : q = pid <;> simp [hq]
  · refine ⟨fun q => ?_, by simp [raiseEvent], rfl, rfl, rfl, rfl, rfl⟩
    simp only [↓reduceIte, raiseEvent, pidRead_pidUpdate]
    rfl

theorem remember_spec (pid : Pid) (cc : BitVec 4) (p : List Byte) (s : State) :
    (∀ q, pidRead (remember pid cc p s) q =
      if q = pid then { pidRead s pid with lastCc := cc, hasCc := true, dupSeen := false } else pidRead s q) ∧
    (∀ q, lastRead (remember pid cc p s) q = if q = pid then p else lastRead s q) := by
  refine ⟨fun q => ?_, fun q => lastRead_remember pid q cc p s⟩
  simp only [remember, pidRead_lastWrite, pidRead_pidUpdate]

/-- R201 to R203. -/
theorem applyVerdict_spec (v : Verdict) (h : Hdr) (p : List Byte) (s : State) :
    (∀ q, pidRead (applyVerdict v h p s) q =
      if q = h.pid then
        { pidRead s h.pid with
          hasCc := if isDup v then (pidRead s h.pid).hasCc else true
          lastCc := if isDup v then (pidRead s h.pid).lastCc else h.cc
          dupSeen := isDup v
          dupCnt := (pidRead s h.pid).dupCnt + (if isDup v then 1 else 0)
          ccErrCnt := (pidRead s h.pid).ccErrCnt + (if isCcErr v then 1 else 0) }
      else pidRead s q) ∧
    (∀ q, lastRead (applyVerdict v h p s) q = if q = h.pid ∧ isDup v = false then p else lastRead s q) ∧
    (applyVerdict v h p s).frm.dupCount = s.frm.dupCount + (if isDup v then 1 else 0) ∧
    (applyVerdict v h p s).frm.ccErrors = s.frm.ccErrors + (if isCcErr v then 1 else 0) ∧
    (applyVerdict v h p s).frm.pidCount = s.frm.pidCount ∧ (applyVerdict v h p s).frm.afErrors = s.frm.afErrors ∧
    (applyVerdict v h p s).frm.roleErrors = s.frm.roleErrors := by
  have hr := remember_spec h.pid h.cc p s
  cases v with
  | duplicate =>
    refine ⟨fun q => ?_, fun q => ?_, by simp [applyVerdict, raiseEvent, isDup],
      by simp [applyVerdict, raiseEvent, isCcErr], rfl, rfl, rfl⟩
    · simp only [applyVerdict, raiseEvent, pidRead_pidUpdate]
      by_cases hq : q = h.pid
      · simp [hq, isDup, isCcErr]
        exact ⟨rfl, rfl, rfl, rfl, rfl, rfl, rfl, rfl, rfl⟩
      · simp [hq]
        rfl
    · simp [applyVerdict, isDup]
  | error =>
    refine ⟨fun q => ?_, fun q => ?_, by simp [applyVerdict, raiseEvent, isDup],
      by simp [applyVerdict, raiseEvent, isCcErr], rfl, rfl, rfl⟩
    · have h2 : ∀ q, pidRead { remember h.pid h.cc p s with
          frm.ccErrors := (remember h.pid h.cc p s).frm.ccErrors + 1 } q = pidRead (remember h.pid h.cc p s) q :=
        fun q => rfl
      simp only [applyVerdict, raiseEvent, pidRead_pidUpdate, h2, hr.1]
      by_cases hq : q = h.pid <;> simp [hq, isDup, isCcErr]
    · simp only [applyVerdict, lastRead_raiseEvent, hr.2]
      simp [isDup]
  | inSequence =>
    refine ⟨fun q => ?_, fun q => ?_, by simp [applyVerdict, isDup],
      by simp [applyVerdict, isCcErr], rfl, rfl, rfl⟩
    · simp only [applyVerdict, hr.1]
      by_cases hq : q = h.pid <;> simp [hq, isDup, isCcErr]
    · simp only [applyVerdict, hr.2]
      simp [isDup]
  | unchecked =>
    refine ⟨fun q => ?_, fun q => ?_, by simp [applyVerdict, isDup],
      by simp [applyVerdict, isCcErr], rfl, rfl, rfl⟩
    · simp only [applyVerdict, hr.1]
      by_cases hq : q = h.pid <;> simp [hq, isDup, isCcErr]
    · simp only [applyVerdict, hr.2]
      simp [isDup]

/-- R205 to R207. -/
theorem applyRole_spec (e : Bool) (cls : Role) (pid : Pid) (s : State) :
    (∀ q, pidRead (applyRole e cls pid s) q =
      if q = pid then
        { pidRead s pid with
          role := if e = true ∧ (pidRead s pid).role = .unclassified then cls else (pidRead s pid).role
          roleErrCnt := (pidRead s pid).roleErrCnt + (if roleMismatchOf e (pidRead s pid).role cls then 1 else 0) }
      else pidRead s q) ∧
    (applyRole e cls pid s).frm.roleErrors =
      s.frm.roleErrors + (if roleMismatchOf e (pidRead s pid).role cls then 1 else 0) ∧
    (applyRole e cls pid s).frm.lastpkt = s.frm.lastpkt ∧
    (applyRole e cls pid s).frm.pidCount = s.frm.pidCount ∧ (applyRole e cls pid s).frm.afErrors = s.frm.afErrors ∧
    (applyRole e cls pid s).frm.ccErrors = s.frm.ccErrors ∧ (applyRole e cls pid s).frm.dupCount = s.frm.dupCount := by
  unfold applyRole roleMismatchOf
  by_cases h1 : e = true
  · by_cases h2 : (pidRead s pid).role = .unclassified
    · refine ⟨fun q => ?_, ?_, ?_, ?_, ?_, ?_, ?_⟩ <;> simp [h1, h2, pidRead_pidUpdate]
    · by_cases h3 : (pidRead s pid).role = cls
      · refine ⟨fun q => ?_, ?_, ?_, ?_, ?_, ?_, ?_⟩ <;> subst h3 <;> simp [h1, h2]
        rintro rfl
        rfl
      · refine ⟨fun q => ?_, ?_, ?_, ?_, ?_, ?_, ?_⟩ <;> simp [h1, h2, h3, raiseEvent, pidRead_pidUpdate]
        rfl
  · refine ⟨fun q => ?_, ?_, ?_, ?_, ?_, ?_, ?_⟩ <;> simp [h1]
    rintro rfl
    rfl

/-! ## The whole step -/

/-- The continuity check looks at the counter, the flag and the repeat bit of the record only. -/
theorem continuity_congr {hp di : Bool} {x y : PidRec} {cc : BitVec 4} {p l : List Byte} (h1 : x.hasCc = y.hasCc)
    (h2 : x.lastCc = y.lastCc) (h3 : x.dupSeen = y.dupSeen) : continuity hp di x cc p l = continuity hp di y cc p l := by
  simp only [continuity, h1, h2, h3]

/-- The verdict of a routed packet, from the state before it. -/
def verdictBefore (h : Hdr) (afc : BitVec 2) (p : List Byte) (s : State) : Verdict :=
  continuity (afc.getLsbD 0) (parseAf afc p).di (pidRead s h.pid) h.cc p (lastRead s h.pid)

/-- pay_valid of a routed packet, from the state before it. -/
def handedOn (h : Hdr) (afc : BitVec 2) (p : List Byte) (s : State) : Bool :=
  payValidOf (payLocated afc (parseAf afc p)) (verdictBefore h afc p s)

/-- The class of a packet (R206). -/
def classOf (afc : BitVec 2) (p : List Byte) : Role :=
  classify p (payOffset afc (parseAf afc p)) (payLength afc (parseAf afc p))

/-- role_mismatch of a routed packet, from the state before it. -/
def mismatchBefore (h : Hdr) (afc : BitVec 2) (p : List Byte) (s : State) : Bool :=
  roleMismatchOf (h.pusi && handedOn h afc p s) (pidRead s h.pid).role (classOf afc p)

/-- The record of the packet's PID after it. -/
def recordAfter (h : Hdr) (afc : BitVec 2) (p : List Byte) (s : State) : PidRec :=
  { valid := true
    role := if (h.pusi && handedOn h afc p s) = true ∧ (pidRead s h.pid).role = .unclassified then classOf afc p
      else (pidRead s h.pid).role
    hasCc := if isDup (verdictBefore h afc p s) then (pidRead s h.pid).hasCc else true
    lastCc := if isDup (verdictBefore h afc p s) then (pidRead s h.pid).lastCc else h.cc
    dupSeen := isDup (verdictBefore h afc p s)
    pktCnt := (pidRead s h.pid).pktCnt + 1
    dupCnt := (pidRead s h.pid).dupCnt + (if isDup (verdictBefore h afc p s) then 1 else 0)
    ccErrCnt := (pidRead s h.pid).ccErrCnt + (if isCcErr (verdictBefore h afc p s) then 1 else 0)
    afErrCnt := (pidRead s h.pid).afErrCnt + (if (parseAf afc p).err then 1 else 0)
    roleErrCnt := (pidRead s h.pid).roleErrCnt + (if mismatchBefore h afc p s then 1 else 0) }

/-- The whole effect of a routed packet's step, in terms of the state before it. -/
theorem routedUnit_spec (h : Hdr) (afc : BitVec 2) (p : List Byte) (s : State) :
    ∃ t, routedUnit h afc p s =
        emit (routedRecord h afc (parseAf afc p) (verdictBefore h afc p s) (mismatchBefore h afc p s)
          (recordAfter h afc p s).role p s.frm.pktCount s.frm.pos) t ∧
      OnlyPidState (advance s) t ∧
      (∀ q, pidRead t q = if q = h.pid then recordAfter h afc p s else pidRead s q) ∧
      (∀ q, lastRead t q = if q = h.pid ∧ isDup (verdictBefore h afc p s) = false then p else lastRead s q) ∧
      t.frm.pidCount = s.frm.pidCount + (if (pidRead s h.pid).valid then 0 else 1) ∧
      t.frm.afErrors = s.frm.afErrors + (if (parseAf afc p).err then 1 else 0) ∧
      t.frm.dupCount = s.frm.dupCount + (if isDup (verdictBefore h afc p s) then 1 else 0) ∧
      t.frm.ccErrors = s.frm.ccErrors + (if isCcErr (verdictBefore h afc p s) then 1 else 0) ∧
      t.frm.roleErrors = s.frm.roleErrors + (if mismatchBefore h afc p s then 1 else 0) := by
  obtain ⟨a1, a2, a3, a4, a5, a6, a7⟩ := touchPid_spec h.pid (advance s)
  obtain ⟨b1, b2, b3, b4, b5, b6, b7⟩ := countAf_spec h.pid (parseAf afc p) (touchPid h.pid (advance s))
  have hv : verdictOf h afc (parseAf afc p) p (countAf h.pid (parseAf afc p) (touchPid h.pid (advance s))) =
      verdictBefore h afc p s := by
    unfold verdictOf verdictBefore
    rw [lastRead_countAf, lastRead_touchPid, lastRead_advance]
    refine continuity_congr ?_ ?_ ?_ <;> simp [b1, a1]
  obtain ⟨c1, c2, c3, c4, c5, c6, c7⟩ := applyVerdict_spec (verdictBefore h afc p s) h p
    (countAf h.pid (parseAf afc p) (touchPid h.pid (advance s)))
  have hrole : (pidRead (applyVerdict (verdictBefore h afc p s) h p
      (countAf h.pid (parseAf afc p) (touchPid h.pid (advance s)))) h.pid).role = (pidRead s h.pid).role := by
    simp [c1, b1, a1]
  obtain ⟨d1, d2, d3, d4, d5, d6, d7⟩ := applyRole_spec (h.pusi && handedOn h afc p s) (classOf afc p) h.pid
    (applyVerdict (verdictBefore h afc p s) h p (countAf h.pid (parseAf afc p) (touchPid h.pid (advance s))))
  have hrec : ∀ q, pidRead (applyRole (h.pusi && handedOn h afc p s) (classOf afc p) h.pid
      (applyVerdict (verdictBefore h afc p s) h p (countAf h.pid (parseAf afc p) (touchPid h.pid (advance s))))) q =
      if q = h.pid then recordAfter h afc p s else pidRead s q := by
    intro q
    by_cases hq : q = h.pid
    · simp [hq, d1, c1, b1, a1, recordAfter, mismatchBefore]
      rfl
    · simp [hq, d1, c1, b1, a1]
  refine ⟨applyRole (h.pusi && handedOn h afc p s) (classOf afc p) h.pid
    (applyVerdict (verdictBefore h afc p s) h p (countAf h.pid (parseAf afc p) (touchPid h.pid (advance s)))),
    ?_, ?_, hrec, ?_, ?_, ?_, ?_, ?_, ?_⟩
  · simp only [routedUnit, hv]
    rw [show (h.pusi && payValidOf (payLocated afc (parseAf afc p)) (verdictBefore h afc p s)) =
      (h.pusi && handedOn h afc p s) from rfl]
    rw [show classify p (payOffset afc (parseAf afc p)) (payLength afc (parseAf afc p)) = classOf afc p from rfl]
    rw [hrec, if_pos rfl, hrole]
    rfl
  · exact (touchPid_only h.pid (advance s)).trans ((countAf_only _ _ _).trans
      ((applyVerdict_only _ _ _ _).trans (applyRole_only _ _ _ _)))
  · intro q
    rw [lastRead_congr d3, c2, lastRead_countAf, lastRead_touchPid, lastRead_advance]
  · rw [d4, c5, b3, a2]; rfl
  · rw [d5, c6, b2, a3]; rfl
  · rw [d7, c3, b5, a5]; rfl
  · rw [d6, c4, b4, a4]; rfl
  · rw [d2, hrole, c7, b6, a6]; rfl

/-! ## Sums over the PID table -/

theorem pidSum_eq (s : State) (f : PidRec → Word64) :
    pidSum s f = ((List.range 8192).map fun i => f (pidRead s (BitVec.ofNat 13 i))).sum := by
  unfold pidSum
  refine congrArg List.sum (List.map_congr_left fun i hi => ?_)
  have := List.mem_range.1 hi
  rw [pidRead, BitVec.toNat_ofNat, Nat.mod_eq_of_lt (by omega)]

/-- A sum over a range in which one term has changed. -/
theorem sum_range_update (f g : Nat → Word64) (n k : Nat) (hk : k < n) (h : ∀ i, i < n → i ≠ k → g i = f i) :
    ((List.range n).map g).sum = ((List.range n).map f).sum + (g k - f k) := by
  induction n with
  | zero => omega
  | succ n ih =>
    rw [List.range_succ, List.map_append, List.map_append, List.sum_append, List.sum_append]
    by_cases hkn : k = n
    · subst hkn
      have : (List.range k).map g = (List.range k).map f := List.map_congr_left fun i hi => by
        have := List.mem_range.1 hi
        exact h i (by omega) (by omega)
      rw [this]
      simp
    · rw [ih (by omega) fun i hi => h i (by omega)]
      simp only [List.map_cons, List.map_nil, List.sum_cons, List.sum_nil, h n (by omega) (Ne.symm hkn)]
      ring

/-- One record changes: the sum changes by its difference. -/
theorem pidSum_update {s t : State} {pid : Pid} {x : PidRec} (f : PidRec → Word64)
    (h : ∀ q, pidRead t q = if q = pid then x else pidRead s q) :
    pidSum t f = pidSum s f + (f x - f (pidRead s pid)) := by
  rw [pidSum_eq, pidSum_eq,
    sum_range_update (fun i => f (pidRead s (BitVec.ofNat 13 i))) _ 8192 pid.toNat pid.isLt]
  · have : BitVec.ofNat 13 pid.toNat = pid := by simp
    rw [this, h, if_pos rfl]
  · intro i hi hne
    have : BitVec.ofNat 13 i ≠ pid := by
      rintro rfl
      rw [BitVec.toNat_ofNat, Nat.mod_eq_of_lt (by omega)] at hne
      exact hne rfl
    simp only [h, if_neg this]

/-! ## The six forms -/

theorem exec_tspTei (h : Hdr) (afc : BitVec 2) {s : State} {p : List Byte} (hp : CoreAt s p) :
    exec (.tspTei h afc) s = .next (teiUnit h afc s) := onUnit_eq_next _ s p hp

theorem exec_tspNosync (w : Word32) {s : State} {p : List Byte} (hp : CoreAt s p) :
    exec (.tspNosync w) s = .next (nosyncUnit s) := onUnit_eq_next _ s p hp

/-- One lemma for the four routed forms. -/
theorem exec_routedForm (h : Hdr) (afc : BitVec 2) {s : State} {p : List Byte} (hp : CoreAt s p) :
    exec (routedForm h afc) s = .next (routedUnit h afc p s) := by
  unfold routedForm
  by_cases h0 : afc = 0
  · subst h0; exact onUnit_eq_next _ s p hp
  · by_cases h1 : afc = 1
    · subst h1; exact onUnit_eq_next _ s p hp
    · by_cases h2 : afc = 2
      · subst h2; exact onUnit_eq_next _ s p hp
      · have h3 : afc = 3 := by
          have := afc.isLt
          apply BitVec.eq_of_toNat_eq
          have e0 : afc.toNat ≠ 0 := fun e => h0 (BitVec.eq_of_toNat_eq e)
          have e1 : afc.toNat ≠ 1 := fun e => h1 (BitVec.eq_of_toNat_eq e)
          have e2 : afc.toNat ≠ 2 := fun e => h2 (BitVec.eq_of_toNat_eq e)
          change afc.toNat = 3
          omega
        subst h3
        exact onUnit_eq_next _ s p hp

/-- A packet form that answers a next state ran on a unit that had arrived, as one of three kinds. -/
theorem exec_form_cases {i : Instr} {s t : State} (hf : i.format = .tspH) (he : exec i s = .next t) :
    ∃ p, CoreAt s p ∧
      ((∃ w, i = .tspNosync w ∧ t = nosyncUnit s) ∨ (∃ h afc, i = .tspTei h afc ∧ t = teiUnit h afc s) ∨
        ∃ h afc, i = routedForm h afc ∧ t = routedUnit h afc p s) := by
  cases i with
  | sysReset | frmStart | frmAbort | crcInit | crcByte | crcCheck => simp [Instr.format] at hf
  | bcClear | bcPush | bcRdu | bcRdue | bcRdse | bcAlign | bcRem => simp [Instr.format] at hf
  | tspTei h afc =>
    obtain ⟨p, hp, ht⟩ := onUnit_cases he
    exact ⟨p, hp, .inr (.inl ⟨h, afc, rfl, ht⟩)⟩
  | tspNosync w =>
    obtain ⟨p, hp, ht⟩ := onUnit_cases he
    exact ⟨p, hp, .inl ⟨w, rfl, ht⟩⟩
  | tspRsv h =>
    obtain ⟨p, hp, ht⟩ := onUnit_cases he
    exact ⟨p, hp, .inr (.inr ⟨h, 0, rfl, ht⟩)⟩
  | tspPay h =>
    obtain ⟨p, hp, ht⟩ := onUnit_cases he
    exact ⟨p, hp, .inr (.inr ⟨h, 1, rfl, ht⟩)⟩
  | tspAf h =>
    obtain ⟨p, hp, ht⟩ := onUnit_cases he
    exact ⟨p, hp, .inr (.inr ⟨h, 2, rfl, ht⟩)⟩
  | tspAfpay h =>
    obtain ⟨p, hp, ht⟩ := onUnit_cases he
    exact ⟨p, hp, .inr (.inr ⟨h, 3, rfl, ht⟩)⟩

/-- What every packet form does to the framer, and the frame of the rest (R180, R181, R93). -/
theorem exec_form_frame {i : Instr} {s t : State} (hi : i.format = .tspH) (he : exec i s = .next t) :
    ∃ r, t = { s with frm := t.frm, ports.recPort := recordBeats r } ∧ t.frm.out = s.frm.out ++ [r] ∧
      t.frm.fstate = s.frm.fstate ∧ t.frm.stride = s.frm.stride ∧ t.frm.lead = s.frm.lead ∧
      t.frm.trail = s.frm.trail ∧ t.frm.abortReq = s.frm.abortReq ∧ t.frm.pktCount = s.frm.pktCount + 1 ∧
      t.frm.pos = s.frm.pos + s.frm.stride.setWidth 64 ∧ r.index = s.frm.pktCount ∧ r.offset = s.frm.pos := by
  obtain ⟨p, hp, ⟨w, rfl, rfl⟩ | ⟨hd, afc, rfl, rfl⟩ | ⟨hd, afc, rfl, rfl⟩⟩ := exec_form_cases hi he
  · exact ⟨_, rfl, rfl, rfl, rfl, rfl, rfl, rfl, rfl, rfl, rfl, rfl⟩
  · exact ⟨_, rfl, rfl, rfl, rfl, rfl, rfl, rfl, rfl, rfl, rfl, rfl⟩
  · obtain ⟨t, h1, h2, -⟩ := routedUnit_spec hd afc p s
    rw [h1]
    unfold OnlyPidState at h2
    rw [h2]
    exact ⟨_, rfl, rfl, rfl, rfl, rfl, rfl, rfl, rfl, rfl, rfl, rfl⟩

/-- A header word always decodes to a packet form. -/
theorem decodeHeader_format (w : Word32) : (decodeHeader w).format = .tspH := by
  unfold decodeHeader
  split_ifs <;> rfl

end Sys2Proof.Machine
end

