-- ==== Sys2Proof/Laws/PerInstr.lean ====
section
/-! SUPPORT. One lemma per instruction: its word selects its row of the opcode table (R113, R117, R118). -/

namespace Sys2Proof.Laws.TableWord

open Sys2Proof Sys2Proof.Machine

/-- The word of a well-formed instruction selects the row of the opcode table that is its own. -/
def Statement (i : Instr) : Prop := i.wf = true → (tableRow i).selects (encode i)

/-- A command word under a mask, field by field. -/
theorem encodeCmd_and (opc : BitVec 8) (arg : BitVec 16) (mask : BitVec 16) :
    encodeCmd opc arg &&& (0xFFFF#16 ++ mask) = opc ++ 0#8 ++ (arg &&& mask) := by
  apply BitVec.eq_of_getLsbD_eq
  intro i hi
  simp only [encodeCmd, BitVec.getLsbD_and, BitVec.getLsbD_append]
  by_cases h : i < 16
  · simp [h]
  · have hm : (0xFFFF#16).getLsbD (i - 16) = true := by
      have : ∀ j, j < 16 → (0xFFFF#16).getLsbD j = true := by decide
      exact this _ (by omega)
    simp [h, hm]

/-- A header word with a good sync byte under a mask that keeps the sync byte, tei and possibly afc (R113). -/
theorem encodeHeader_and (tei : Bool) (h : Hdr) (afc m : BitVec 2) :
    encodeHeader tei h afc &&& (0xFF#8 ++ 1#1 ++ 0#17 ++ m ++ 0#4) = syncByte ++ flag tei ++ 0#17 ++ (afc &&& m) ++ 0#4 := by
  apply BitVec.eq_of_getLsbD_eq
  intro i hi
  simp only [encodeHeader, BitVec.getLsbD_and, BitVec.getLsbD_append]
  by_cases h1 : i < 4
  · simp [h1]
  · by_cases h2 : i - 4 < 2
    · simp [h1, h2]
    · by_cases h3 : i < 23
      · have e : i - 4 - 2 < 17 := by omega
        simp [h1, h2, e]
      · have e1 : ¬ i - 4 - 2 < 17 := by omega
        have e2 : ¬ i - 4 - 2 < 2 := by omega
        have e3 : ¬ i - 4 - 2 - 2 < 13 := by omega
        have e4 : ¬ i - 4 - 2 - 2 - 13 < 1 := by omega
        have e5 : ¬ i - 4 - 2 - 2 - 13 - 1 < 1 := by omega
        have e6 : i - 4 - 2 - 2 - 13 - 1 - 1 = i - 4 - 2 - 17 := by omega
        by_cases h4 : i - 4 - 2 - 17 < 1
        · have : i - 4 - 2 - 17 = 0 := by omega
          simp [h1, h2, e1, e2, e3, e4, e5, e6, this]
        · have hm : (0xFF#8).getLsbD (i - 4 - 2 - 17 - 1) = true := by
            have : ∀ j, j < 8 → (0xFF#8).getLsbD j = true := by decide
            exact this _ (by omega)
          simp [h1, h2, e1, e2, e3, e4, e5, e6, h4, hm]

theorem sysReset : Statement .sysReset := fun _ => rfl
theorem frmStart : Statement .frmStart := fun _ => rfl
theorem frmAbort : Statement .frmAbort := fun _ => rfl
theorem crcInit : Statement .crcInit := fun _ => rfl
theorem crcByte (b : Byte) : Statement (.crcByte b) := fun _ => by
  have hb : byteArg b &&& 0xFF00 = 0 := by revert b; decide
  exact (encodeCmd_and opcCrcByte (byteArg b) 0xFF00).trans (by rw [hb]; rfl)
theorem crcCheck : Statement .crcCheck := fun _ => rfl
theorem bcClear : Statement .bcClear := fun _ => rfl
theorem bcPush (b : Byte) : Statement (.bcPush b) := fun _ => by
  have hb : byteArg b &&& 0xFF00 = 0 := by revert b; decide
  exact (encodeCmd_and opcBcPush (byteArg b) 0xFF00).trans (by rw [hb]; rfl)
theorem bcRdu (n : BitVec 16) : Statement (.bcRdu n) := fun _ => by
  have hn : n &&& 0 = 0 := by simp
  exact (encodeCmd_and opcBcRdu n 0).trans (by rw [hn]; rfl)
theorem bcRdue : Statement .bcRdue := fun _ => rfl
theorem bcRdse : Statement .bcRdse := fun _ => rfl
theorem bcAlign : Statement .bcAlign := fun _ => rfl
theorem bcRem : Statement .bcRem := fun _ => rfl
theorem tspTei (h : Hdr) (afc : BitVec 2) : Statement (.tspTei h afc) := fun _ => by
  have ha : afc &&& 0 = 0 := by simp
  exact (encodeHeader_and true h afc 0).trans (by rw [ha]; rfl)
theorem tspRsv (h : Hdr) : Statement (.tspRsv h) := fun _ => (encodeHeader_and false h 0 3).trans rfl
theorem tspPay (h : Hdr) : Statement (.tspPay h) := fun _ => (encodeHeader_and false h 1 3).trans rfl
theorem tspAf (h : Hdr) : Statement (.tspAf h) := fun _ => (encodeHeader_and false h 2 3).trans rfl
theorem tspAfpay (h : Hdr) : Statement (.tspAfpay h) := fun _ => (encodeHeader_and false h 3 3).trans rfl
theorem tspNosync (w : Word32) : Statement (.tspNosync w) := fun _ => by
  simp [tableRow, TableRow.selects]

end Sys2Proof.Laws.TableWord
end

