-- ==== Sys2Proof/Laws/Regs.lean ====
section
/-! SUPPORT. The register map and the CRC fold: every slot stands at its address, no address above the map has one, and what a
read and a write of a slot are. -/

namespace Sys2Proof.Machine

open Sys2Proof

/-- R36: every slot is found at its own address. -/
theorem slotAt_slotAddr (sl : Slot) : slotAt (slotAddr sl) = some sl := by cases sl <;> decide

/-- What is found at an address is the slot of that address, its low three bits ignored (R83). -/
theorem slotAt_eq_some_iff (a : BitVec 12) (sl : Slot) : slotAt a = some sl ↔ a &&& 0xFF8 = slotAddr sl := by
  constructor
  · intro h
    have := List.find?_some h
    simpa using (beq_iff_eq.1 this).symm
  · intro h
    have h2 : slotAt a = slotAt (slotAddr sl) := by
      have : slotAddr sl &&& 0xFF8 = slotAddr sl := by cases sl <;> decide
      simp only [slotAt, h, this]
    rw [h2, slotAt_slotAddr]

/-- R37: there is no slot at 0x0E0 and above. -/
theorem slotAt_eq_none {a : BitVec 12} (h : 0x0E0 ≤ a.toNat) : slotAt a = none := by
  cases hs : slotAt a with
  | none => rfl
  | some sl =>
    have h1 := (slotAt_eq_some_iff a sl).1 hs
    have h2 : (slotAddr sl).toNat ≤ 0x0D8 := by cases sl <;> decide
    have h3 : a = (a &&& 0xFF8) ||| (a &&& 7) := by
      apply BitVec.eq_of_getLsbD_eq
      intro i hi
      have : ∀ i, i < 12 → ((0xFF8 : BitVec 12).getLsbD i || (7 : BitVec 12).getLsbD i) = true := by decide
      rw [BitVec.getLsbD_or, BitVec.getLsbD_and, BitVec.getLsbD_and, ← Bool.and_or_distrib_left, this i hi,
        Bool.and_true]
    have h4 : ∀ sl : Slot, ∀ b : BitVec 12, b.toNat < 8 → (slotAddr sl ||| b).toNat < 0x0E0 := by
      intro sl b hb
      have hb' : b = BitVec.setWidth 12 (BitVec.ofNat 3 b.toNat) := by
        apply BitVec.eq_of_toNat_eq
        simp only [BitVec.toNat_setWidth, BitVec.toNat_ofNat]
        omega
      rw [hb']
      generalize BitVec.ofNat 3 b.toNat = c
      revert c
      cases sl <;> decide
    have h5 : (a &&& 7).toNat < 8 := by
      rw [BitVec.toNat_and]
      exact Nat.lt_of_le_of_lt Nat.and_le_right (by decide)
    have := h4 sl (a &&& 7) h5
    rw [← h1, ← h3] at this
    omega

/-- A read at a slot's address is a read of the slot. -/
theorem regRead_slotAddr (s : State) (sl : Slot) : regRead s (slotAddr sl) = readSlot s sl := by
  simp only [regRead, slotAt_slotAddr]

/-- A write at the address of a slot other than CMD is a write of the slot (R36). -/
theorem hostWrite_slotAddr (s : State) (sl : Slot) (v : Word64) (h : sl ≠ .cmd) :
    hostWrite (slotAddr sl) v s = .next (writeSlot sl v s) := by
  simp only [hostWrite, slotAt_slotAddr]

/-- R39: a write of CMD runs the command word in bits 31:0. -/
theorem hostWrite_cmd {a : BitVec 12} (s : State) (v : Word64) (h : a &&& 0xFF8 = 0) :
    hostWrite a v s = runCommand (v.extractLsb' 0 32) s := by
  simp only [hostWrite, (slotAt_eq_some_iff a .cmd).2 h]

/-- A span is folded part by part (R231). -/
theorem crcFold_append (poly c : Word32) (a b : List Byte) :
    crcFold poly c (a ++ b) = crcFold poly (crcFold poly c a) b := by
  induction a generalizing c with
  | nil => rfl
  | cons x a ih => simp [crcFold, ih]

end Sys2Proof.Machine
end

