-- ==== Sys2Proof/Laws/Steps.lean ====
section
/-! SUPPORT. Said once: what a command can do, what the framer's move can be, what a step can be. Every invariant of the
machine follows from `step_move` by cases. -/

namespace Sys2Proof.Machine

open Sys2Proof

/-! ## Commands -/

/-- A command of the CRC unit changes the unit and RESP (R93). -/
theorem exec_crc_cases (i : Instr) (s : State) (hi : isCrcCmd i = true) :
    ∃ opc v u, exec i s = .next (respondOk opc v { s with crc := u }) := by
  cases i with
  | crcInit => exact ⟨_, _, _, rfl⟩
  | crcByte b => exact ⟨_, _, _, rfl⟩
  | crcCheck =>
    by_cases h : s.crc.reg = 0
    · exact ⟨opcCrcCheck, s.crc.reg, { s.crc with matched := true }, by simp only [exec, execCrcCheck, h, ↓reduceIte]⟩
    · exact ⟨opcCrcCheck, s.crc.reg, { s.crc with matched := false, errors := s.crc.errors + 1 },
        by simp only [exec, execCrcCheck, h, ↓reduceIte, raiseEvent]⟩
  | sysReset | frmStart | frmAbort => simp [isCrcCmd] at hi
  | bcClear | bcPush | bcRdu | bcRdue | bcRdse | bcAlign | bcRem => simp [isCrcCmd] at hi
  | tspTei | tspRsv | tspPay | tspAf | tspAfpay | tspNosync => simp [isCrcCmd] at hi

/-- FRM.START, in both cases (R152). -/
theorem exec_frmStart (s : State) :
    (s.frm.fstate = .idle ∧ exec .frmStart s = .next (respondOk opcFrmStart 0
      { s with frm.fstate := .probe, ports.streamEnd := inEmpty s,
               ports.inputEnds := s.ports.inputEnds && !inEmpty s })) ∨
    (s.frm.fstate ≠ .idle ∧ exec .frmStart s = .next (respondErr opcFrmStart .badState s)) := by
  by_cases h : s.frm.fstate = .idle
  · exact .inl ⟨h, if_pos h⟩
  · exact .inr ⟨h, if_neg h⟩

/-- FRM.ABORT, in both cases (R165). -/
theorem exec_frmAbort (s : State) :
    ((s.frm.fstate = .probe ∨ s.frm.fstate = .run) ∧
      exec .frmAbort s = .next (respondOk opcFrmAbort 0 { s with frm.abortReq := true })) ∨
    (¬ (s.frm.fstate = .probe ∨ s.frm.fstate = .run) ∧
      exec .frmAbort s = .next (respondErr opcFrmAbort .badState s)) := by
  by_cases h : s.frm.fstate = .probe ∨ s.frm.fstate = .run
  · exact .inl ⟨h, if_pos h⟩
  · exact .inr ⟨h, if_neg h⟩

/-- Every command belongs to the framer, to the CRC unit or to the bit cursor. -/
theorem cw32_cases (i : Instr) (hi : i.format = .cw32) :
    i = .sysReset ∨ i = .frmStart ∨ i = .frmAbort ∨ isCrcCmd i = true ∨ isBcCmd i = true := by
  cases i <;> simp_all [Instr.format, isCrcCmd, isBcCmd]

/-- SYS.RESET (R161). -/
theorem exec_sysReset_inv {s t : State} (h : exec .sysReset s = .next t) :
    t = respondOk opcSysReset 0 (hardReset s) := (Host.Outcome.next.inj h).symm

/-- Every command completes, in every state (R92). -/
theorem exec_cw32_next (i : Instr) (s : State) (hi : i.format = .cw32) : ∃ t, exec i s = .next t := by
  rcases cw32_cases i hi with rfl | rfl | rfl | h | h
  · exact ⟨_, rfl⟩
  · rcases exec_frmStart s with h | h <;> exact ⟨_, h.2⟩
  · rcases exec_frmAbort s with h | h <;> exact ⟨_, h.2⟩
  · obtain ⟨_, _, _, h⟩ := exec_crc_cases i s h
    exact ⟨_, h⟩
  · rcases exec_bc_cases i s h with ⟨_, _, _, h⟩ | ⟨_, _, _, _, h⟩ | ⟨_, _, h⟩ | ⟨_, h⟩ | ⟨_, _, _, h⟩ | ⟨_, h⟩
    all_goals exact ⟨_, h⟩

theorem decodeNoArg_ok {w : Word32} {i j : Instr} (h : decodeNoArg w i = .ok j) : j = i := by
  unfold decodeNoArg at h
  split_ifs at h
  exact (Except.ok.inj h).symm

theorem decodeByteArg_ok {w : Word32} {f : Byte → Instr} {j : Instr} (h : decodeByteArg w f = .ok j) :
    ∃ b, j = f b := by
  unfold decodeByteArg at h
  split_ifs at h
  exact ⟨_, (Except.ok.inj h).symm⟩

theorem decodeWideArg_ok {w : Word32} {f : BitVec 16 → Instr} {j : Instr} (h : decodeWideArg w f = .ok j) :
    ∃ n, j = f n := by
  unfold decodeWideArg at h
  split_ifs at h
  exact ⟨_, (Except.ok.inj h).symm⟩

theorem of_ite_eq {α : Type} {c : Prop} [Decidable c] {a b x : α} (h : (if c then a else b) = x) : a = x ∨ b = x := by
  split at h
  · exact .inl h
  · exact .inr h

/-- A command word decodes to a command. -/
theorem decodeCmd_format {w : Word32} {i : Instr} (h : decodeCmd w = .ok i) : i.format = .cw32 := by
  unfold decodeCmd at h
  iterate 13
    rcases of_ite_eq h with h | h
    · first
        | (rw [decodeNoArg_ok h]; rfl)
        | (obtain ⟨b, rfl⟩ := decodeByteArg_ok h; rfl)
        | (obtain ⟨b, rfl⟩ := decodeWideArg_ok h; rfl)
  simp at h

/-! ## The framer's move -/

/-- The probe step locks one of the four strides or fails, and changes nothing else (R157, R158). -/
theorem probeStep_cases (s : State) :
    (∃ r, r ∈ strideTable ∧ probeChoice s = some r ∧ probeStep s = lockStride r s) ∨
    (probeChoice s = none ∧ probeStep s = { s with frm.fstate := .fail }) := by
  unfold probeStep
  cases hr : probeChoice s with
  | none => exact .inr ⟨rfl, rfl⟩
  | some r =>
    refine .inl ⟨r, ?_, rfl, rfl⟩
    unfold probeChoice at hr
    split at hr
    · next r' h' =>
      cases Option.some.inj hr
      unfold forcedRow at h'
      split_ifs at h' <;> simp_all [strideTable]
    · exact List.mem_of_find?_eq_some hr

/-- R151, R166. -/
theorem abortDue_iff (s : State) : abortDue s = true ↔ AbortDue s := by
  unfold abortDue AbortDue
  cases s.frm.fstate <;> simp

/-- R155. -/
theorem passes_iff (s : State) (r : StrideRow) :
    passes s.ports.stream s.cfg.probeMinRun.toNat (visibleBytes s) r = true ↔
      ProbePasses s r.stride.toNat (rowLead r) := by
  unfold passes ProbePasses visibleBytes syncByte
  simp only [List.all_eq_true, List.mem_range, Bool.and_eq_true, decide_eq_true_eq, beq_iff_eq]
  refine forall_congr' fun i => imp_congr_right fun hi => and_congr_right fun h => ?_
  rw [List.getD_eq_getElem?_getD, List.getElem?_eq_getElem (by omega)]
  simp

theorem enabledStep_packet {s : State} (h : enabledStep s = .packet) :
    s.frm.fstate = .run ∧ s.ports.recPort = [] ∧ abortDue s = false ∧ unitReady s = true := by
  unfold enabledStep at h
  split at h
  all_goals
    try split_ifs at h
    all_goals simp_all

theorem enabledStep_probe {s : State} (h : enabledStep s = .probe) :
    s.frm.fstate = .probe ∧ s.ports.recPort = [] ∧ abortDue s = false ∧ probeReady s = true := by
  unfold enabledStep at h
  split at h
  all_goals
    try split_ifs at h
    all_goals simp_all

theorem enabledStep_finish {s : State} (h : enabledStep s = .finish) :
    s.frm.fstate = .run ∧ s.ports.recPort = [] ∧ abortDue s = false ∧ unitReady s = false ∧
      s.ports.streamEnd = true := by
  unfold enabledStep at h
  split at h
  all_goals
    try split_ifs at h
    all_goals simp_all

theorem enabledStep_abort {s : State} (h : enabledStep s = .abort) :
    (s.frm.fstate = .probe ∨ s.frm.fstate = .run) ∧ s.ports.recPort = [] ∧ abortDue s = true := by
  unfold enabledStep at h
  split at h
  all_goals
    try split_ifs at h
    all_goals simp_all

/-! ## Moves -/

/-- What one move can be; `o` is the prescribed turn, if any. -/
inductive Move (o : Option Turn) (s : State) : State → Prop where
  | stay : Move o s s
  | read (a : BitVec 12) : Move o s { s with ports.rdata := regRead s a }
  | reset (h : o = some (.host .reset)) : Move o s (hardReset s)
  | command (i : Instr) (t : State) (hi : i.format = .cw32) (ho : o.bind turnCmd = some i) (h : exec i s = .next t) :
    Move o s t
  | illegal (opc : BitVec 8) : Move o s (respondErr opc .illegalCmd s)
  | writeCfg (v : Word64) : Move o s (writeCfg v s)
  | writeBcStatus (v : Word64) : Move o s (writeBcStatus v s)
  | writePidSel (v : Word64) : Move o s (writePidSel v s)
  | probe (hf : s.frm.fstate = .probe) (hp : s.ports.recPort = []) : Move o s (probeStep s)
  | packet (i : Instr) (t : State) (hf : s.frm.fstate = .run) (hp : s.ports.recPort = []) (hi : i.format = .tspH)
    (h : exec i s = .next t) : Move o s t
  | finish (hf : s.frm.fstate = .run) (hp : s.ports.recPort = []) (hu : unitReady s = false)
    (he : s.ports.streamEnd = true) : Move o s (endStep s)
  | abort (hf : s.frm.fstate = .probe ∨ s.frm.fstate = .run) (hp : s.ports.recPort = []) : Move o s (abortStep s)
  | source (n : Nat) : Move o s (sourceStep n s)
  | sink (n : Nat) : Move o s (sinkStep n s)
  | present (bytes : List Byte) (ends : Bool) : Move o s (presentStep bytes ends s)

theorem framerStep_move (o : Option Turn) {s t : State} (h : framerStep s = .next t) : Move o s t := by
  unfold framerStep at h
  split at h
  · cases Host.Outcome.next.inj h; exact .stay
  · cases Host.Outcome.next.inj h; exact .stay
  · next he =>
    cases Host.Outcome.next.inj h
    exact .probe (enabledStep_probe he).1 (enabledStep_probe he).2.1
  · next he => exact .packet _ t (enabledStep_packet he).1 (enabledStep_packet he).2.1 (decodeHeader_format _) h
  · next he =>
    cases Host.Outcome.next.inj h
    obtain ⟨h1, h2, -, h3, h4⟩ := enabledStep_finish he
    exact .finish h1 h2 h3 h4
  · next he =>
    cases Host.Outcome.next.inj h
    exact .abort (enabledStep_abort he).1 (enabledStep_abort he).2.1

theorem hostAccess_move {a : Access} {s t : State} (h : hostAccess a s = .next t) : Move (some (.host a)) s t := by
  cases a with
  | read a => cases Host.Outcome.next.inj h; exact .read a
  | reset => cases Host.Outcome.next.inj h; exact .reset rfl
  | write a v =>
    simp only [hostAccess, hostWrite] at h
    split at h
    · next hs =>
      unfold runCommand at h
      split at h
      · next i hd =>
        refine .command i t (decodeCmd_format hd) ?_ h
        simp [turnCmd, hs, hd, Except.toOption]
      · cases Host.Outcome.next.inj h; exact .illegal _
    · next sl _ hs =>
      cases Host.Outcome.next.inj h
      cases sl <;> first | exact .stay | exact .writeCfg v | exact .writeBcStatus v | exact .writePidSel v
    · cases Host.Outcome.next.inj h; exact .stay

theorem takeTurn_move {t : Turn} {s s' : State} (h : takeTurn t s = .next s') : Move (some t) s s' := by
  cases t with
  | host a => exact hostAccess_move h
  | framer => exact framerStep_move _ h
  | source n => cases Host.Outcome.next.inj h; exact .source n
  | sink n => cases Host.Outcome.next.inj h; exact .sink n
  | present bytes ends => cases Host.Outcome.next.inj h; exact .present bytes ends

theorem freeRun_move {s s' : State} (h : freeRun s = .next s') : Move none s s' := by
  unfold freeRun at h
  split_ifs at h
  · cases Host.Outcome.next.inj h; exact .sink _
  · split at h
    · cases Host.Outcome.next.inj h; exact .source _
    · cases Host.Outcome.next.inj h; exact .source _
    all_goals exact framerStep_move _ h

theorem dropTurn_of_nil {s : State} (h : s.ports.turns = []) : dropTurn s = s := by
  obtain ⟨f, c, b, cfg, r, ps, pw, pa, po⟩ := s
  obtain ⟨p1, p2, p3, p4, p5, p6, p7, p8⟩ := po
  simp only at h
  subst h
  rfl

/-- What a step can be: the prescribed turn is taken off the list, and then one move is made. -/
theorem step_move {s s' : State} (h : step s = .next s') : Move s.ports.turns.head? (dropTurn s) s' := by
  unfold step at h
  split at h
  · next ht =>
    rw [dropTurn_of_nil ht, ht]
    exact freeRun_move h
  · next t ts ht =>
    rw [ht]
    exact takeTurn_move h

end Sys2Proof.Machine
end

