-- ==== Sys2Proof/Tests/Slice0.lean ====
section
/-! SUPPORT. The model's own tests: ill-formed terms, words written out from 30_encoding.md, one step per instruction
with the values of 95_test_vectors.md, and for each statement with hypotheses a named witness that meets them. -/

namespace Sys2Proof.Tests

open Sys2Proof Sys2Proof.Machine

/-! ## Helpers -/

/-- The next state, if there is one. -/
def after (o : Out) : Option State :=
  match o with
  | .next s => some s
  | .fault _ => none
  | .refused _ => none

/-- A field of the state after a meaning. -/
def see {α : Type} (f : State → α) (o : Out) : Option α := (after o).map f

/-- RESP after a meaning. -/
def resp (o : Out) : Option Word64 := see (fun t => respWord t.resp) o

/-- The bit cursor with these bytes loaded, at this bit. -/
def loaded (bytes : List Byte) (pos : Nat) : State :=
  { State.reset with
    bc.buf := (bytes.zipIdx).foldl (fun m e => m.write e.2 e.1) []
    bc.bufLen := bytes.length
    bc.bitPos := pos }

/-- The CRC unit with this register. -/
def crcAt (r : Word32) : State := { State.reset with crc.reg := r }

/-- A state in this FSTATE. -/
def inState (f : FState) : State := { State.reset with frm.fstate := f }

/-- A packet core: these bytes, then fill. -/
def coreOf (bytes : List Byte) (fill : Byte) : List Byte := bytes ++ List.replicate (188 - bytes.length) fill

/-- The framer in RUN at stride 188 with these bytes arrived. -/
def running (stream : List Byte) : State :=
  { State.reset with frm.fstate := .run, frm.stride := 188, ports.stream := stream }

/-- The same with a record of one PID, and the packet remembered for it. -/
def knowing (pid : Pid) (x : PidRec) (p : List Byte) (s : State) : State :=
  lastWrite pid p (pidUpdate pid (fun _ => x) s)

/-- A record that holds a counter. -/
def recWith (cc : BitVec 4) (dupSeen : Bool) (role : Role) : PidRec :=
  { PidRec.reset with valid := true, hasCc := true, lastCc := cc, dupSeen := dupSeen, role := role, pktCnt := 1 }

/-- A header of PID 0x40. -/
def hdr (pusi : Bool) (cc : BitVec 4) : Hdr := { pusi := pusi, prio := false, pid := 0x40, tsc := 0, cc := cc }

/-- The packet A of 95_test_vectors.md section 2.3: PID 0x40, counter 5, payload AA. -/
def packetA : List Byte := coreOf [0x47, 0x00, 0x40, 0x15, 0xAA] 0xFF

/-- The unit at POS of `running p` is `p`. -/
theorem coreAt_running (p : List Byte) (h : p.length = 188) : CoreAt (running p) p := by
  simp [CoreAt, running, State.reset, Framer.reset, h]

theorem length_coreOf (bytes : List Byte) (fill : Byte) (h : bytes.length ≤ 188) : (coreOf bytes fill).length = 188 := by
  simp only [coreOf, List.length_append, List.length_replicate]
  omega

/-! ## WellFormed: the one check, R113 row 6 -/

theorem test_wf_refuses_nosync_with_sync_byte : (Instr.tspNosync 0x47400010).wf = false := by decide
theorem test_wf_accepts_nosync : (Instr.tspNosync 0x48010013).wf = true := by decide

/-! ## Decoding: V-ENC-1, V-ENC-2, R117, R118 written out bit by bit -/

theorem test_decode_sysReset : decodeCmd 0b00000001_00000000_0000000000000000#32 = .ok .sysReset := by decide
theorem test_decode_frmStart : decodeCmd 0b00010000_00000000_0000000000000000#32 = .ok .frmStart := by decide
theorem test_decode_frmAbort : decodeCmd 0b00010001_00000000_0000000000000000#32 = .ok .frmAbort := by decide
theorem test_decode_crcInit : decodeCmd 0b00100000_00000000_0000000000000000#32 = .ok .crcInit := by decide
theorem test_decode_crcByte : decodeCmd 0b00100001_00000000_0000000010110000#32 = .ok (.crcByte 0xB0) := by decide
theorem test_decode_crcCheck : decodeCmd 0b00100010_00000000_0000000000000000#32 = .ok .crcCheck := by decide
theorem test_decode_bcClear : decodeCmd 0b00110000_00000000_0000000000000000#32 = .ok .bcClear := by decide
theorem test_decode_bcPush : decodeCmd 0b00110001_00000000_0000000001100111#32 = .ok (.bcPush 0x67) := by decide
theorem test_decode_bcRdu : decodeCmd 0b00110010_00000000_0000000000100001#32 = .ok (.bcRdu 33) := by decide
theorem test_decode_bcRdue : decodeCmd 0b00110011_00000000_0000000000000000#32 = .ok .bcRdue := by decide
theorem test_decode_bcRdse : decodeCmd 0b00110100_00000000_0000000000000000#32 = .ok .bcRdse := by decide
theorem test_decode_bcAlign : decodeCmd 0b00110101_00000000_0000000000000000#32 = .ok .bcAlign := by decide
theorem test_decode_bcRem : decodeCmd 0b00110110_00000000_0000000000000000#32 = .ok .bcRem := by decide
theorem test_decode_tspTei : decodeHeader 0b01000111_1_1_1_0000100100011_11_01_1111#32 =
    .tspTei { pusi := true, prio := true, pid := 0x123, tsc := 3, cc := 15 } 1 := by decide
theorem test_decode_tspRsv : decodeHeader 0b01000111_0_0_0_0000000110000_00_00_1010#32 =
    .tspRsv { pusi := false, prio := false, pid := 0x30, tsc := 0, cc := 10 } := by decide
theorem test_decode_tspPay : decodeHeader 0b01000111_0_1_0_0000000000000_00_01_0000#32 =
    .tspPay { pusi := true, prio := false, pid := 0, tsc := 0, cc := 0 } := by decide
theorem test_decode_tspAf : decodeHeader 0b01000111_0_0_0_0000000110000_00_10_0111#32 =
    .tspAf { pusi := false, prio := false, pid := 0x30, tsc := 0, cc := 7 } := by decide
theorem test_decode_tspAfpay : decodeHeader 0b01000111_0_0_0_0000100000000_00_11_0010#32 =
    .tspAfpay { pusi := false, prio := false, pid := 0x100, tsc := 0, cc := 2 } := by decide
theorem test_decode_tspNosync : decodeHeader 0b11000111_0_1_0_0000000000000_00_01_0000#32 = .tspNosync 0xC7400010 := by
  decide

/-- V-ERR-1. -/
theorem test_decode_illegal_words :
    decodeCmd 0x00000000 = .error .unassignedOpcode ∧ decodeCmd 0x37000000 = .error .unassignedOpcode ∧
    decodeCmd 0xFF000000 = .error .unassignedOpcode ∧ decodeCmd 0x10000001 = .error .nonzeroArgument ∧
    decodeCmd 0x22000100 = .error .nonzeroArgument ∧ decodeCmd 0x21000100 = .error .nonzeroArgument ∧
    decodeCmd 0x31001234 = .error .nonzeroArgument ∧ decodeCmd 0x32010008 = .error .nonzeroReserved ∧
    decodeCmd 0x33800000 = .error .nonzeroReserved := by decide

/-- V-ENC-3. -/
theorem test_clockRef : clockRef [0x91, 0xA2, 0xB3, 0xC4, 0xFE, 0xAB] 0 = 0x2468ACF12AB ∧
    clockRef [0x00, 0x00, 0x00, 0x01, 0x01, 0x2C] 0 = 0x52C ∧ clockRef [0, 0, 0, 0, 0x7E, 0] 0 = 0 := by decide

/-! ## The host's two questions -/

theorem test_table_word_command : decodeTableWord 32 0x32000005 = some (.bcRdu 5) := by decide
theorem test_table_word_header : decodeTableWord 32 0x47010032 =
    some (.tspAfpay { pusi := false, prio := false, pid := 0x100, tsc := 0, cc := 2 }) := by decide
theorem test_fetch_command : resp (step (State.reset.withFetchWord 32 0x20000000)) = some 0x0000200000000000 := by decide
theorem test_fetch_header : see (fun t => t.frm.out.map (·.kind)) (step (State.reset.withFetchWord 32 0x47810000)) =
    some [.tei] := by decide +kernel

/-! ## One step per instruction -/

/-- V-FRM-13. -/
theorem test_sysReset : see (fun t => (respWord t.resp, t.crc.reg, t.bc.bufLen, cfgWord t.cfg))
    (exec .sysReset (loaded [0xA5] 3)) = some (0x0000010000000000, 0xFFFFFFFF, 0, 0x34004) := by decide

/-- V-FRM-1. -/
theorem test_frmStart_idle : see (fun t => (respWord t.resp, t.frm.fstate)) (exec .frmStart State.reset) =
    some (0x0000100000000000, .probe) := by decide
theorem test_frmStart_run : see (fun t => (respWord t.resp, t.frm.fstate)) (exec .frmStart (inState .run)) =
    some (0x0000101200000000, .run) := by decide

/-- V-FRM-2. -/
theorem test_frmAbort_run : see (fun t => (respWord t.resp, frmStatusWord t.frm)) (exec .frmAbort (inState .run)) =
    some (0x0000110000000000, 0xA) := by decide
theorem test_frmAbort_done : see (fun t => (respWord t.resp, t.frm.abortReq)) (exec .frmAbort (inState .done)) =
    some (0x0000111200000000, false) := by decide

/-- V-CRC-1, V-CRC-3. -/
theorem test_crcInit : see (fun t => (respWord t.resp, t.crc.reg)) (exec .crcInit (crcAt 0)) =
    some (0x0000200000000000, 0xFFFFFFFF) := by decide
theorem test_crcByte : see (fun t => (respWord t.resp, t.crc.reg)) (exec (.crcByte 0x47) State.reset) =
    some (0x0000210000000047, 0x64C99FC6) := by decide
theorem test_crcByte_from_zero : see (fun t => t.crc.reg) (exec (.crcByte 0x80) (crcAt 0)) = some 0x690CE0EE := by decide
theorem test_crcCheck_mismatch : see (fun t => (respWord t.resp, t.crc)) (exec .crcCheck (crcAt 0x64C99FC6)) =
    some (0x0000220064C99FC6, { reg := 0x64C99FC6, matched := false, errors := 1 }) := by decide
theorem test_crcCheck_match : see (fun t => t.crc) (exec .crcCheck (crcAt 0)) =
    some { reg := 0, matched := true, errors := 0 } := by decide

/-- V-CRC-2: the check value of the catalogue. -/
theorem test_crc_check_value : crcOf 0x04C11DB7 [0x31, 0x32, 0x33, 0x34, 0x35, 0x36, 0x37, 0x38, 0x39] = 0x0376E6E7 := by
  decide +kernel

/-- V-BC-6, V-BC-3. -/
theorem test_bcClear : see (fun t => (respWord t.resp, t.bc.bufLen, t.bc.bitPos)) (exec .bcClear (loaded [0xA5] 3)) =
    some (0x0000300000000000, 0, 0) := by decide
theorem test_bcPush : see (fun t => (respWord t.resp, t.bc.bufLen, t.bc.buf)) (exec (.bcPush 0xA5) State.reset) =
    some (0x0000310000000001, 1, [(0, 0xA5)]) := by decide
theorem test_bcPush_full : see (fun t => (respWord t.resp, bcStatusWord t.bc))
    (exec (.bcPush 0) { loaded [0x08] 0 with params.bcBufBytes := 1 }) = some (0x0000311600000000, 0x0D) := by decide

/-- V-BC-4, V-BC-5. -/
theorem test_bcRdu : see (fun t => (respWord t.resp, t.bc.bitPos)) (exec (.bcRdu 32) (loaded [0xA5, 0x5A, 0xC3, 0x3C, 0xFF] 4)) =
    some (0x0000320055AC33CF, 36) := by decide
theorem test_bcRdu_width_first : resp (exec (.bcRdu 33) State.reset) = some 0x0000321400000000 := by decide

/-- V-BC-2, V-BC-3. -/
theorem test_bcRdue_longest : see (fun t => (respWord t.resp, t.bc.bitPos))
    (exec .bcRdue (loaded [0, 0, 0, 1, 0xFF, 0xFF, 0xFF, 0xFE] 0)) = some (0x00003300FFFFFFFE, 63) := by decide
theorem test_bcRdue_too_long : see (fun t => (respWord t.resp, t.bc.bitPos, bcStatusWord t.bc))
    (exec .bcRdue (loaded [0, 0, 0, 0] 0)) = some (0x0000331500000000, 0, 0x0B) := by decide

/-- V-BC-1, V-BC-2. -/
theorem test_bcRdse_minus_two : see (fun t => (respWord t.resp, t.bc.bitPos)) (exec .bcRdse (loaded [0x28] 0)) =
    some (0x00003400FFFFFFFE, 5) := by decide
theorem test_bcRdse_least : resp (exec .bcRdse (loaded [0, 0, 0, 1, 0xFF, 0xFF, 0xFF, 0xFE] 0)) =
    some 0x0000340080000001 := by decide

/-- V-BC-7. -/
theorem test_bcAlign : see (fun t => t.bc.bitPos) (exec .bcAlign (loaded [0, 0, 0, 0, 0, 0, 0] 35)) = some 40 := by decide
theorem test_bcRem : resp (exec .bcRem (loaded [0, 0, 0, 0, 0, 0, 0] 35)) = some 0x0000360000000015 := by decide

/-- P4 unit 9 (routed, neither field), P3 unit 1 (the first packet of a PID classifies Pes), V-PKT-9 (PCR and OPCR) and
V-PKT-11 (a length byte of 184 is an error). -/
theorem test_tspRsv_tspPay_tspAf_tspAfpay :
    see (fun t => (t.frm.pktCount, (pidRead t 0x30).lastCc, t.frm.out.map (·.payValid)))
      (exec (.tspRsv { pusi := false, prio := false, pid := 0x30, tsc := 0, cc := 10 })
        (running (coreOf [0x47, 0x00, 0x30, 0x0A] 0xFF))) = some (1, 10, [false]) ∧
    see (fun t => (t.frm.pos, (pidRead t 0x100).role, t.frm.out.map (fun r => (r.payOff, r.payLen))))
      (exec (.tspPay { pusi := true, prio := false, pid := 0x100, tsc := 0, cc := 5 })
        (running (coreOf [0x47, 0x41, 0x00, 0x15, 0, 0, 1, 0xE0] 0xFF))) = some (188, .pes, [(4, 184)]) ∧
    see (fun t => t.frm.out.map (fun r => (r.afLen, r.pcr, r.opcr, r.payValid)))
      (exec (.tspAf { pusi := false, prio := false, pid := 0x50, tsc := 0, cc := 0 })
        (running (coreOf [0x47, 0x00, 0x50, 0x20, 0xB7, 0x18, 0x91, 0xA2, 0xB3, 0xC4, 0xFE, 0xAB, 0, 0, 0, 1, 1, 0x2C]
          0xFF))) = some [(183, 0x2468ACF12AB, 0x52C, false)] ∧
    see (fun t => (t.frm.afErrors, t.frm.out.map (fun r => (r.afErr, r.afLen, r.payValid, r.payOff))))
      (exec (.tspAfpay { pusi := false, prio := false, pid := 0x30, tsc := 0, cc := 9 })
        (running (coreOf [0x47, 0x00, 0x30, 0x39, 0xB8] 0xFF))) = some (1, [(true, 184, false, 0)]) := by
  refine ⟨?_, ?_, ?_, ?_⟩ <;> decide +kernel

/-- P3 units 7 and 6; V-PKT-1 (the second copy is a tolerated duplicate, the third a continuity error). -/
theorem test_tspTei_tspNosync_and_copies :
    see (fun t => (t.frm.teiCount, t.frm.pidCount, t.frm.out.map (fun r => (r.kind, r.pid, r.cc))))
      (exec (.tspTei { pusi := false, prio := false, pid := 0x100, tsc := 0, cc := 3 } 1)
        (running (coreOf [0x47, 0x81, 0x00, 0x13, 0x77] 0xFF))) = some (1, 0, [(.tei, 0x100, 3)]) ∧
    see (fun t => (t.frm.syncErrors, t.frm.pidCount, t.frm.out))
      (exec (.tspNosync 0x48010013) (running (coreOf [0x48, 0x01, 0x00, 0x13, 0x66] 0xFF))) =
      some (1, 0, [Record.blank .nosync 0 0]) ∧
    see (fun t => (t.frm.dupCount, t.frm.ccErrors, t.frm.out.map (·.dup)))
      (exec (.tspPay (hdr false 5)) (knowing 0x40 (recWith 5 false .unclassified) packetA (running packetA))) =
      some (1, 0, [true]) ∧
    see (fun t => (t.frm.dupCount, t.frm.ccErrors, t.frm.out.map (·.ccErr)))
      (exec (.tspPay (hdr false 5)) (knowing 0x40 (recWith 5 true .unclassified) packetA (running packetA))) =
      some (0, 1, [true]) := by
  refine ⟨?_, ?_, ?_, ?_⟩ <;> decide +kernel

/-! ## Registers: V-REG-1, V-REG-2, V-FRM-12, V-ERR-3 -/

theorem test_read_reset_values : regRead State.reset 0x010 = 0x34004 ∧ regRead State.reset 0x068 = 0xFFFFFFFF ∧
    regRead State.reset 0x0D0 = 0x1000 ∧ regRead State.reset 0x0D8 = 1 ∧ regRead State.reset 0xFF8 = 0 := by decide
theorem test_write_pid_sel : see (fun t => t.pidSel) (hostAccess (.write 0x098 0xFFFFE100) State.reset) = some 0x100 := by
  decide
theorem test_write_cfg : see (fun t => cfgWord t.cfg) (hostAccess (.write 0x010 0x0000000001000003) State.reset) =
    some 0x0000000001034003 := by decide
theorem test_write_cmd_upper_half : resp (hostAccess (.write 0x000 0xFFFFFFFF36000000) State.reset) =
    some 0x0000360000000000 := by decide
theorem test_illegal_keeps_sticky : see (fun t => (respWord t.resp, bcStatusWord t.bc))
    (hostAccess (.write 0x000 0x31001234) State.reset) = some (0x0000311100000000, 0) := by decide

end Sys2Proof.Tests
end

