-- ==== Sys2Proof/Tests/Witness.lean ====
section
/-! SUPPORT. For every statement of Certificates/Slice0/Obligations.lean that has hypotheses, a concrete state and operands
that meet them, clause by clause; the theorem's name is the statement's. -/

namespace Sys2Proof.Tests

open Sys2Proof Sys2Proof.Machine

/-! ## Helpers -/

theorem next_of_after {o : Out} (h : (after o).isSome = true) : ∃ s, o = .next s := by
  cases o with
  | next s => exact ⟨s, rfl⟩
  | fault f => simp [after] at h
  | refused r => simp [after] at h

/-- A meaning that answers a next state of which `f` is `v`. -/
theorem next_of_see {α : Type} {f : State → α} {o : Out} {v : α} (h : see f o = some v) :
    ∃ s, o = .next s ∧ f s = v := by
  cases o with
  | next s => exact ⟨s, rfl, Option.some.inj h⟩
  | fault r => simp [see, after] at h
  | refused r => simp [see, after] at h

/-- A unit without lead lies where the bytes before it end. -/
theorem coreAt_of {s : State} {p pre post : List Byte} (h1 : s.ports.stream = pre ++ p ++ post)
    (h2 : s.frm.pos.toNat = pre.length) (h3 : s.frm.stride = 188) (h4 : s.frm.lead = false) (h5 : p.length = 188) :
    CoreAt s p := by
  refine ⟨?_, ?_, h5, fun i hi => ?_⟩
  · rw [h1, h2, h3]
    simp only [List.length_append, h5]
    change pre.length + 188 ≤ _
    omega
  · rw [h3, h4]
    decide
  · rw [h1, h2, h4, List.append_assoc, List.getElem?_append_right (by simp),
      List.getElem?_append_left (by simp [h5]; omega)]
    simp

theorem length_packetA : packetA.length = 188 := length_coreOf _ _ (by decide)

theorem coreAt_packetA : CoreAt (running packetA) packetA := coreAt_running packetA length_packetA

theorem step_running_stream : ∃ t, step (running packetA) = .next t ∧ t.ports.stream.length = 188 :=
  next_of_see (f := fun t => t.ports.stream.length) (by decide +kernel)

theorem step_running : ∃ t, step (running packetA) = .next t :=
  let ⟨t, h, _⟩ := step_running_stream
  ⟨t, h⟩

/-- The host's next move is this register write. -/
def withWrite (a : BitVec 12) (v : Word64) (s : State) : State := { s with ports.turns := [.host (.write a v)] }

/-- The framer in PROBE with this run length, mode and stream, whose end has been seen. -/
def probing (run : BitVec 8) (mode : BitVec 3) (stream : List Byte) : State :=
  { State.reset with
    frm.fstate := .probe
    cfg := { probeMinRun := run, probeWindow := 832, strideMode := mode }
    ports.stream := stream, ports.streamEnd := true }

/-! ## Commands -/

theorem witness_FrmStartStartsOnlyFromIdle : State.reset.frm.fstate = .idle ∧ (inState .run).frm.fstate ≠ .idle := by
  decide

theorem witness_FrmAbortRequestsOnlyWhileRunning :
    (inState .probe).frm.fstate = .probe ∧ (inState .run).frm.fstate = .run ∧
    ((inState .done).frm.fstate ≠ .probe ∧ (inState .done).frm.fstate ≠ .run) := by decide

theorem witness_BadStateOnlyFromStartAndAbort : Instr.frmStart.format = .cw32 ∧
    ∃ t, exec .frmStart (inState .run) = .next t ∧ t.resp.cause = .badState :=
  ⟨rfl, next_of_see (f := fun t => t.resp.cause) (by decide)⟩

theorem witness_CrcCommandsComplete : (crcAt 0).crc.reg = 0 ∧ State.reset.crc.reg ≠ 0 := by decide

/-- A CRC.BYTE, a move of the framer and a command of the bit cursor. -/
def spanTurns : List Turn := [.host (.write 0 0x21000047), .framer, .host (.write 0 0x36000000)]

theorem witness_CrcRegisterHoldsCodeOfFedSpan : (∀ t ∈ spanTurns, keepsSpan t) ∧ fedBytes spanTurns = [0x47] ∧
    ∃ s₁, exec .crcInit State.reset = .next s₁ ∧ ∃ s₂, runTurns spanTurns s₁ = .next s₂ := by
  refine ⟨?_, by decide, _, rfl, next_of_after (by decide)⟩
  unfold keepsSpan
  decide

theorem witness_CrcDetectsEverySingleByteChange : Params.default.crcPoly.getLsbD 0 = true ∧ (0xFF : Byte) ≠ 0xFE ∧
    crcOf Params.default.crcPoly ([] ++ 0xFF :: [0xFF, 0xFF, 0xFF]) = 0 ∧
    ∀ c, (crcAt c).crc.reg = c :=
  ⟨by decide, by decide, by decide +kernel, fun _ => rfl⟩

theorem witness_CrcAcceptanceIsComparison : Params.default.crcPoly.getLsbD 0 = true := by decide

/-! ## The bit cursor -/

theorem cursorOk_loaded (bytes : List Byte) (pos : Nat) (h1 : pos ≤ 8 * bytes.length) (h2 : bytes.length ≤ 4096) :
    CursorOk (loaded bytes pos) := ⟨h1, h2⟩

theorem witness_BcClearAndAlignComplete : CursorOk (loaded [0xA5, 0x5A] 9) ∧ CursorOk (loaded [0xA5, 0x5A] 16) :=
  ⟨cursorOk_loaded _ _ (by decide) (by decide), cursorOk_loaded _ _ (by decide) (by decide)⟩

theorem witness_BcPushAppendsOneByte : State.reset.bc.bufLen ≠ State.reset.params.bcBufBytes ∧
    { loaded [0x08] 0 with params.bcBufBytes := 1 }.bc.bufLen =
      { loaded [0x08] 0 with params.bcBufBytes := 1 }.params.bcBufBytes := by decide

theorem witness_BcRduReadsOrFails :
    ((0 : BitVec 16).toNat < 1 ∧ 32 < (33 : BitVec 16).toNat) ∧
    (1 ≤ (1 : BitVec 16).toNat ∧ (1 : BitVec 16).toNat ≤ 32 ∧
      nbits State.reset < State.reset.bc.bitPos + (1 : BitVec 16).toNat) ∧
    (1 ≤ (32 : BitVec 16).toNat ∧ (32 : BitVec 16).toNat ≤ 32 ∧
      (loaded [1, 2, 3, 4] 0).bc.bitPos + (32 : BitVec 16).toNat ≤ nbits (loaded [1, 2, 3, 4] 0)) := by decide

theorem witness_BcRduValueLaws :
    (∃ t, exec (.bcRdu 32) (loaded [1, 2, 3, 4] 0) = .next t ∧ t.resp.err = false) ∧
    ((1 : BitVec 16).toNat + (31 : BitVec 16).toNat ≤ 32 ∧
      ∃ t, exec (.bcRdu 1) (loaded [1, 2, 3, 4] 0) = .next t ∧ t.resp.err = false ∧
        ∃ u, exec (.bcRdu 31) t = .next u ∧ u.resp.err = false) ∧
    ((loaded [1, 2, 3, 4, 5] 8).bc.bitPos = 8 * 1 ∧ 1 + 4 ≤ (loaded [1, 2, 3, 4, 5] 8).bc.bufLen) :=
  ⟨⟨_, rfl, by decide⟩, ⟨by decide, _, rfl, by decide, _, rfl, by decide⟩, by decide⟩

/-- k = 31 zeros to the end; k = 4 with the suffix missing; k = 31 whole, k = 0; 32 zeros. -/
theorem witness_BcRdueDecodesOrFails :
    ((∀ j, j < 31 → (loaded [0, 0, 0, 0] 1).bc.bitPos + j < nbits (loaded [0, 0, 0, 0] 1) ∧
        bitAt (loaded [0, 0, 0, 0] 1) ((loaded [0, 0, 0, 0] 1).bc.bitPos + j) = false) ∧
      nbits (loaded [0, 0, 0, 0] 1) ≤ (loaded [0, 0, 0, 0] 1).bc.bitPos + 31) ∧
    ((∀ j, j < 4 → bitAt (loaded [0x08] 0) j = false) ∧ bitAt (loaded [0x08] 0) 4 = true ∧
      4 < nbits (loaded [0x08] 0) ∧ nbits (loaded [0x08] 0) < 2 * 4 + 1) ∧
    ((∀ j, j < 31 → bitAt (loaded [0, 0, 0, 1, 0, 0, 0, 0] 0) j = false) ∧
      bitAt (loaded [0, 0, 0, 1, 0, 0, 0, 0] 0) 31 = true ∧
      2 * 31 + 1 ≤ nbits (loaded [0, 0, 0, 1, 0, 0, 0, 0] 0)) ∧
    (bitAt (loaded [0x80] 0) 0 = true ∧ 2 * 0 + 1 ≤ nbits (loaded [0x80] 0)) ∧
    (∀ j, j < 32 → (loaded [0, 0, 0, 0, 0x80] 0).bc.bitPos + j < nbits (loaded [0, 0, 0, 0, 0x80] 0) ∧
      bitAt (loaded [0, 0, 0, 0, 0x80] 0) ((loaded [0, 0, 0, 0, 0x80] 0).bc.bitPos + j) = false) := by
  refine ⟨?_, ?_, ?_, ?_, ?_⟩ <;> decide

theorem witness_BcRdueInvertsTheCode :
    (∃ t, exec .bcRdue (loaded [0, 0, 0, 1, 0xFF, 0xFF, 0xFF, 0xFE] 0) = .next t ∧
      (t.resp.err, t.resp.value.toNat) = (false, 2 ^ 32 - 2)) ∧ 2 ^ 32 - 2 < 2 ^ 32 - 1 :=
  ⟨next_of_see (f := fun t => (t.resp.err, t.resp.value.toNat)) (by decide), by decide⟩

/-- A failure, an odd value, an even value. -/
theorem witness_BcRdseMapsTheUnsignedCode :
    (∃ u, exec .bcRdue (loaded [0] 0) = .next u ∧ u.resp.err = true) ∧
    (∃ u, exec .bcRdue (loaded [0x40] 0) = .next u ∧ (u.resp.err, u.resp.value.toNat % 2) = (false, 1)) ∧
    ∃ u, exec .bcRdue (loaded [0x60] 0) = .next u ∧ (u.resp.err, u.resp.value.toNat % 2) = (false, 0) :=
  ⟨next_of_see (f := fun u => u.resp.err) (by decide),
    next_of_see (f := fun u => (u.resp.err, u.resp.value.toNat % 2)) (by decide),
    next_of_see (f := fun u => (u.resp.err, u.resp.value.toNat % 2)) (by decide)⟩

theorem witness_BcRemCountsRemainingBits : CursorOk (loaded [1, 2, 3, 4] 0) ∧ (loaded [1, 2, 3, 4] 0).params.Legal ∧
    1 ≤ (32 : BitVec 16).toNat ∧ (32 : BitVec 16).toNat ≤ 32 :=
  ⟨cursorOk_loaded _ _ (by decide) (by decide), by decide, by decide, by decide⟩

theorem witness_BcCommandsFailAtomically : isBcCmd (.bcRdu 1) = true ∧
    (∃ t, exec (.bcRdu 1) State.reset = .next t ∧ t.resp.err = true) ∧
    (∃ t, exec .bcRem State.reset = .next t ∧ t.resp.err = false) ∧
    ∃ t, exec .bcClear State.reset = .next t ∧ t.resp.err = false :=
  ⟨rfl, next_of_see (f := fun t => t.resp.err) (by decide), next_of_see (f := fun t => t.resp.err) (by decide),
    next_of_see (f := fun t => t.resp.err) (by decide)⟩

theorem witness_StepKeepsCursorInsideBuffer : CursorOk (withWrite 0 0x32000008 (loaded [0xA5] 0)) ∧
    ∃ t, step (withWrite 0 0x32000008 (loaded [0xA5] 0)) = .next t ∧ t.bc.bitPos = 8 :=
  ⟨⟨by decide, by decide⟩, next_of_see (f := fun t => t.bc.bitPos) (by decide)⟩

theorem witness_CursorReadsOnlyLoadedBytes : isBcCmd (.bcRdu 8) = true ∧ (∀ b, Instr.bcRdu 8 ≠ .bcPush b) ∧
    CursorOk (loaded [0xA5] 0) ∧
    (∀ a, a < (loaded [0xA5] 0).bc.bufLen →
      Memory.read [(0, 0xA5), (1, 0xFF)] a = (loaded [0xA5] 0).bc.buf.read a) ∧
    (∃ t, exec (.bcRdu 8) (loaded [0xA5] 0) = .next t) ∧
    (SameButUnreadBuf (withWrite 0 0x3100005A (loaded [0xA5] 0))
        { withWrite 0 0x3100005A (loaded [0xA5] 0) with bc.buf := [(0, 0xA5), (1, 0xFF)] } ∧
      ∃ t, step (withWrite 0 0x3100005A (loaded [0xA5] 0)) = .next t) :=
  ⟨rfl, by simp, cursorOk_loaded _ _ (by decide) (by decide), by decide, next_of_after (by decide),
    ⟨rfl, by decide⟩, next_of_after (by decide)⟩

/-! ## Encodings -/

theorem witness_DecodeOfEncodeIsIdentity : (Instr.tspNosync 0x48010013).wf = true ∧ (Instr.bcRdu 0xFFFF).wf = true := by
  decide

theorem witness_EncodeOfDecodeIsIdentity : decode .cw32 0x3200FFFF = .ok (.bcRdu 0xFFFF) ∧
    decode .tspH 0x48010013 = .ok (.tspNosync 0x48010013) := by decide

theorem witness_CommandTableDecidesDecoding : decodeCmd 0x3200FFFF = .ok (.bcRdu 0xFFFF) ∧
    (tableRow (.bcRdu 0)).selects 0x3200FFFF := ⟨by decide, rfl⟩

theorem witness_FormTableDecidesDecoding :
    (0x47FFFFFF#32 &&& 0xFF800000 = 0x47800000) ∧ (0x477FFFCF#32 &&& 0xFF800030 = 0x47000000) ∧
    (0x47000010#32 &&& 0xFF800030 = 0x47000010) ∧ (0x47000020#32 &&& 0xFF800030 = 0x47000020) ∧
    (0x47000030#32 &&& 0xFF800030 = 0x47000030) ∧ (0x48000000#32).extractLsb' 24 8 ≠ 0x47 := by decide

theorem witness_IllegalCommandChangesOnlyResp : (0x007 : BitVec 12) &&& 0xFF8 = 0 ∧
    decodeCmd ((0xFFFFFFFF37000000 : Word64).extractLsb' 0 32) = .error .unassignedOpcode := by decide

/-! ## Steps -/

theorem witness_StepRunsTheWrittenCommand :
    (withWrite 0 0x36000000 State.reset).ports.turns = [.host (.write 0 0x36000000)] ∧ (0 : BitVec 12) &&& 0xFF8 = 0 ∧
    decodeCmd ((0x36000000 : Word64).extractLsb' 0 32) = .ok .bcRem := by decide

theorem witness_StepRunsTheDecodedUnit : (running packetA).frm.fstate = .run ∧ ¬ AbortDue (running packetA) ∧
    CoreAt (running packetA) packetA ∧ (running packetA).ports.recPort = [] ∧ (running packetA).ports.turns = [] ∧
    { running packetA with ports.turns := [.framer] }.ports.turns = [.framer] :=
  ⟨rfl, by simp [AbortDue, running, State.reset, Framer.reset], coreAt_packetA, rfl, rfl, rfl⟩

/-- An abort due in PROBE and in RUN; the end step; the probe step; a record at the record output; a unit of which one byte
is missing; a probe of which one byte is missing. -/
theorem witness_FramerTakesTheEnabledStep :
    AbortDue { inState .probe with frm.abortReq := true } ∧ AbortDue { inState .run with frm.abortReq := true } ∧
    ({ running [] with ports.streamEnd := true }.ports.stream.length <
        (running []).frm.pos.toNat + (running []).frm.stride.toNat ∧ ¬ AbortDue (running [])) ∧
    ((probing 4 0 []).ports.streamEnd = true ∧ ¬ AbortDue (probing 4 0 [])) ∧
    { inState .run with ports.recPort := [.data 0 true] }.ports.recPort ≠ [] ∧
    ((running (List.replicate 187 0)).ports.streamEnd = false ∧ ¬ AbortDue (running (List.replicate 187 0)) ∧
      (running (List.replicate 187 0)).ports.stream.length <
        (running (List.replicate 187 0)).frm.pos.toNat + (running (List.replicate 187 0)).frm.stride.toNat) ∧
    ({ probing 4 0 (List.replicate 831 0) with ports.streamEnd := false }.ports.stream.length <
        (probing 4 0 []).cfg.probeWindow.toNat) := by
  refine ⟨⟨rfl, .inl rfl⟩, ⟨rfl, .inr ⟨rfl, by decide⟩⟩, ⟨by decide, ?_⟩, ⟨rfl, ?_⟩, by simp, ⟨rfl, ?_, ?_⟩, ?_⟩
  · simp [AbortDue, running, State.reset, Framer.reset]
  · simp [AbortDue, probing, State.reset, Framer.reset]
  · simp [AbortDue, running, State.reset, Framer.reset]
  · change (List.replicate 187 (0 : Byte)).length < 0 + 188
    rw [List.length_replicate]
    decide
  · change (List.replicate 831 (0 : Byte)).length < 832
    rw [List.length_replicate]
    decide

/-- The four forced modes and, in auto mode, a stream for each candidate and one for none. -/
theorem witness_ProbeStepLocksOrFails :
    ((probing 4 1 []).frm.fstate = .probe ∧ (probing 4 1 []).frm.abortReq = false ∧ (probing 4 1 []).ports.recPort = [] ∧
      (probing 4 1 []).ports.streamEnd = true ∧ (probing 4 1 []).cfg.strideMode = 1) ∧
    ((probing 4 2 []).cfg.strideMode = 2 ∧ (probing 4 3 []).cfg.strideMode = 3 ∧ (probing 4 4 []).cfg.strideMode = 4) ∧
    ProbePasses (probing 1 0 [0x47]) 188 0 ∧
    (¬ ProbePasses (probing 1 0 [0, 0, 0, 0, 0x47]) 188 0 ∧ ProbePasses (probing 1 0 [0, 0, 0, 0, 0x47]) 192 4) ∧
    ¬ ProbePasses (probing 1 0 []) 188 0 ∧ ¬ ProbePasses (probing 1 0 []) 192 4 ∧
    ¬ ProbePasses (probing 1 0 []) 204 0 ∧ ¬ ProbePasses (probing 1 0 []) 208 4 := by
  unfold ProbePasses
  refine ⟨?_, ?_, ?_, ?_, ?_, ?_, ?_, ?_⟩ <;> decide

/-- Two sync bytes at this distance, after this many other bytes. -/
def twoSyncs (lead dist : Nat) : List Byte :=
  List.replicate lead 0 ++ 0x47 :: (List.replicate (dist - 1) 0 ++ [0x47])

theorem witness_ProbeStepLocksOrFails_204_208 :
    (¬ ProbePasses (probing 2 0 (twoSyncs 0 204)) 188 0 ∧ ¬ ProbePasses (probing 2 0 (twoSyncs 0 204)) 192 4 ∧
      ProbePasses (probing 2 0 (twoSyncs 0 204)) 204 0) ∧
    (¬ ProbePasses (probing 2 0 (twoSyncs 4 208)) 188 0 ∧ ¬ ProbePasses (probing 2 0 (twoSyncs 4 208)) 192 4 ∧
      ¬ ProbePasses (probing 2 0 (twoSyncs 4 208)) 204 0 ∧ ProbePasses (probing 2 0 (twoSyncs 4 208)) 208 4) := by
  unfold ProbePasses
  refine ⟨?_, ?_⟩ <;> decide +kernel

theorem witness_StepKeepsToTheTransitionTable :
    ∃ t, step (withWrite 0 0x10000000 State.reset) = .next t ∧ t.frm.fstate = .probe :=
  next_of_see (f := fun t => t.frm.fstate) (by decide)

/-- PID 0x40 has been seen and carries a PES stream. -/
def pesKnown : State := knowing 0x40 (recWith 4 false .pes) packetA (running packetA)

theorem pidRead_pesKnown : pidRead pesKnown 0x40 = recWith 4 false .pes := by
  simp [pesKnown, knowing]

theorem witness_StepKeepsRecordsAndRoles : (pidRead pesKnown 0x40).valid = true ∧
    (pidRead pesKnown 0x40).role ≠ .unclassified ∧ ¬ ResetIsNext pesKnown ∧ ∃ t, step pesKnown = .next t := by
  rw [pidRead_pesKnown]
  refine ⟨rfl, by decide, ?_, next_of_after (by decide +kernel)⟩
  rintro ⟨t, ts, h, -⟩
  simp [pesKnown, knowing, running, State.reset, Ports.reset] at h

theorem strideOk_running : StrideOk (running packetA) := by
  simp [StrideOk, running, State.reset, Framer.reset]

theorem witness_NoStreamAndNoCommandStopsTheMachine : StrideOk (running packetA) := strideOk_running

/-! ## Invariants: a run about to consume a unit meets all of them -/

theorem pidRead_running (p : List Byte) (pid : Pid) : pidRead (running p) pid = PidRec.reset := by
  simp [pidRead, running, State.reset, Framer.reset, SMap.get]

theorem sum_range_zero (n : Nat) : ((List.range n).map fun _ => (0 : Word64)).sum = 0 := by
  induction n with
  | zero => rfl
  | succ n ih =>
    rw [List.range_succ, List.map_append, List.sum_append, ih]
    rfl

theorem pidSum_running (p : List Byte) (f : PidRec → Word64) (h : f PidRec.reset = 0) : pidSum (running p) f = 0 := by
  rw [pidSum_eq]
  simp only [pidRead_running, h]
  exact sum_range_zero _

theorem witness_StepKeepsStrideInAgreement : StrideOk (running packetA) ∧ ∃ t, step (running packetA) = .next t :=
  ⟨strideOk_running, step_running⟩

theorem witness_StepKeepsCountersEqualToSums : CountsOk (running packetA) ∧ ∃ t, step (running packetA) = .next t := by
  refine ⟨?_, step_running⟩
  unfold CountsOk
  rw [pidSum_running _ _ rfl, pidSum_running _ _ rfl, pidSum_running _ _ rfl, pidSum_running _ _ rfl,
    pidSum_running _ _ rfl, pidSum_running _ _ rfl]
  simp [running, State.reset, Framer.reset]

theorem witness_StepKeepsPidRecordsConsistent : PidsOk (running packetA) ∧
    (∀ pid, RecOk (pidRead (running packetA) pid) ∧ (pidRead (running packetA) pid).pktCnt.toNat + 1 < 2 ^ 64) ∧
    ∃ t, step (running packetA) = .next t :=
  ⟨fun pid => by rw [pidRead_running]; decide, fun pid => by rw [pidRead_running]; simp [RecOk, PidRec.reset],
    step_running⟩

theorem witness_StepKeepsStoresCanonical : StoresOk (running packetA) ∧ ∃ t, step (running packetA) = .next t := by
  refine ⟨?_, step_running⟩
  simp [StoresOk, running, State.reset, Framer.reset, BitCursor.reset]
  decide

theorem witness_StepKeepsRespAndCfgLegal : RespOk State.reset ∧ CfgOk State.reset ∧
    ∃ t, step (withWrite 0x010 0x0000000001000003 State.reset) = .next t ∧ cfgWord t.cfg = 0x0000000001034003 :=
  ⟨by simp [RespOk, State.reset, Resp.reset], by simp [CfgOk, State.reset, Cfg.reset],
    next_of_see (f := fun t => cfgWord t.cfg) (by decide)⟩

/-- TSP.PAY completes on a unit that has arrived. -/
theorem exec_tspPay_next {s : State} {p : List Byte} (h : Hdr) (hp : CoreAt s p) :
    ∃ t, exec (.tspPay h) s = .next t := ⟨_, onUnit_eq_next _ _ _ hp⟩

theorem witness_StepKeepsRecordOutputInOrder :
    ((running packetA).ports.recPort = [] ∧ ∃ t, exec (.tspPay (hdr false 5)) (running packetA) = .next t) ∧
    PortOk (running packetA) ∧ ∃ t, step (running packetA) = .next t :=
  ⟨⟨rfl, exec_tspPay_next _ coreAt_packetA⟩, rfl, step_running⟩

theorem witness_StepKeepsUnitGridAndFloorCount : StrideOk (running packetA) ∧ GridOk (running packetA) ∧
    ∃ t, step (running packetA) = .next t ∧ t.ports.stream.length = 188 := by
  refine ⟨strideOk_running, ?_, step_running_stream⟩
  simp [GridOk, running, State.reset, Framer.reset]

/-! ## The packet step -/

theorem witness_EveryFormCountsAdvancesAndEmitsOnce : (Instr.tspPay (hdr false 5)).format = .tspH ∧
    (Instr.tspNosync 0x48010013).format = .tspH ∧ CoreAt (running packetA) packetA := ⟨rfl, rfl, coreAt_packetA⟩

/-- At stride 188 from offset 188, and at stride 192 after four lead bytes. -/
theorem witness_UnroutedFormsTouchNoPid :
    CoreAt { running (packetA ++ packetA) with frm.pos := 188 } packetA ∧
    CoreAt { running ([0, 0, 0, 1] ++ packetA) with frm.stride := 192, frm.lead := true } packetA := by
  refine ⟨coreAt_of (pre := packetA) (post := []) (by simp [running]) (by rw [length_packetA]; rfl) rfl rfl
    length_packetA, ?_, by decide, length_packetA, fun i _ => ?_⟩
  · simp [running, State.reset, Framer.reset, length_packetA]
  · simp only [running, State.reset, Framer.reset]
    have e : (0 : Word64).toNat + 4 * true.toNat + i = i + 4 := by
      change 0 + 4 * 1 + i = i + 4
      omega
    rw [e]
    rfl

theorem witness_RoutedPacketTouchesItsOwnPid : CoreAt (running packetA) packetA ∧ (0x41 : Pid) ≠ (hdr false 5).pid :=
  ⟨coreAt_packetA, by decide⟩

/-- A core of PID 0x40 whose adaptation field begins with these bytes. -/
def afCore (bytes : List Byte) : List Byte := coreOf ([0x47, 0x00, 0x40, 0x35] ++ bytes) 0xFF

/-- No field; an overrun at 184; 183 with every flag; a length of 0; a PCR one byte too long. -/
theorem witness_AdaptationFieldIsParsed : (∀ bytes : List Byte, bytes.length ≤ 184 →
      CoreAt (running (afCore bytes)) (afCore bytes)) ∧
    (1 : BitVec 2).getLsbD 1 = false ∧
    ((3 : BitVec 2).getLsbD 1 = true ∧ (parseAf 3 (afCore [0xB8])).err = true) ∧
    ((parseAf 3 (afCore [0xB7, 0xFF])).err = false ∧ (parseAf 3 (afCore [0xB7, 0xFF])).pcrValid = true ∧
      (parseAf 3 (afCore [0xB7, 0xFF])).opcrValid = true) ∧
    (parseAf 3 (afCore [0x00])).len = 0 ∧
    ((parseAf 3 (afCore [0x06, 0x10])).pcrValid = false ∧ (parseAf 3 (afCore [0x07, 0x10])).pcrValid = true) := by
  refine ⟨fun bytes h => coreAt_running _ (length_coreOf _ _ ?_), ?_, ?_, ?_, ?_, ?_⟩
  · simp only [List.length_append, List.length_cons, List.length_nil]
    omega
  all_goals decide

/-- A payload at offset 188, one withheld by an overrun, and one handed on. -/
theorem witness_PayloadIsLocatedAndWithheld : CoreAt (running packetA) packetA ∧
    ((3 : BitVec 2).getLsbD 0 = true ∧ (parseAf 3 (afCore [0xB7, 0x00])).err = false ∧
      payOffset 3 (parseAf 3 (afCore [0xB7, 0x00])) = 188) ∧
    (parseAf 3 (afCore [0xB8])).err = true ∧ handedOn (hdr true 5) 1 packetA (running packetA) = true :=
  ⟨coreAt_packetA, by decide, by decide, by decide⟩

theorem pidRead_knowing (pid : Pid) (x : PidRec) (p : List Byte) (s : State) : pidRead (knowing pid x p s) pid = x := by
  simp [knowing]

theorem lastRead_knowing (pid : Pid) (x : PidRec) (p : List Byte) (s : State) : lastRead (knowing pid x p s) pid = p := by
  simp [knowing, lastRead_lastWrite]

/-- PID 0x40 holds counter 5 and packet A. -/
def heldA (dupSeen : Bool) (s : State) : State := knowing 0x40 (recWith 5 dupSeen .psi) packetA s

theorem verdictBefore_heldA (dupSeen : Bool) (s : State) (cc : BitVec 4) :
    verdictBefore (hdr false cc) 1 packetA (heldA dupSeen s) =
      continuity true false (recWith 5 dupSeen .psi) cc packetA packetA := by
  unfold verdictBefore heldA
  rw [show (hdr false cc).pid = 0x40 from rfl, pidRead_knowing, lastRead_knowing]
  rfl

/-- In sequence (and the wrap from 15 to 0), a duplicate, an error. -/
theorem witness_ContinuityVerdictFollowsTheCases : CoreAt (heldA false (running packetA)) packetA ∧
    ((1 : BitVec 2).getLsbD 0 = true ∧ (parseAf 1 packetA).di = false ∧
      (pidRead (heldA false (running packetA)) 0x40).hasCc = true) ∧
    ((6 : BitVec 4).toNat = ((5 : BitVec 4).toNat + 1) % 16 ∧ (0 : BitVec 4).toNat = ((15 : BitVec 4).toNat + 1) % 16) ∧
    ((hdr false 5).cc = (pidRead (heldA false (running packetA)) 0x40).lastCc ∧
      packetA = lastRead (heldA false (running packetA)) 0x40 ∧
      (pidRead (heldA false (running packetA)) 0x40).dupSeen = false) ∧
    (9 : BitVec 4).toNat ≠ ((5 : BitVec 4).toNat + 1) % 16 ∧ (9 : BitVec 4) ≠ 5 := by
  unfold heldA
  rw [pidRead_knowing, lastRead_knowing]
  exact ⟨coreAt_packetA, by decide, by decide, ⟨rfl, rfl, rfl⟩, by decide⟩

/-- A duplicate, an error, and neither. -/
theorem witness_VerdictUpdatesExpectationAndCounts : CoreAt (heldA false (running packetA)) packetA ∧
    verdictBefore (hdr false 5) 1 packetA (heldA false (running packetA)) = .duplicate ∧
    verdictBefore (hdr false 9) 1 packetA (heldA false (running packetA)) = .error ∧
    verdictBefore (hdr false 6) 1 packetA (heldA false (running packetA)) = .inSequence := by
  simp only [verdictBefore_heldA]
  exact ⟨coreAt_packetA, by simp [continuity, recWith], by simp [continuity, recWith], by simp [continuity, recWith]⟩

/-- An eligible packet of an unset PID, and one that disagrees with a fixed role. -/
theorem witness_RoleIsSetOnceAndMismatchCounted : CoreAt (running packetA) packetA ∧
    ((hdr true 5).pusi = true ∧ handedOn (hdr true 5) 1 packetA (running packetA) = true ∧
      (pidRead (running packetA) 0x40).role = .unclassified) ∧
    ((pidRead pesKnown 0x40).role ≠ .unclassified ∧ classOf 1 packetA = .psi) := by
  rw [pidRead_pesKnown, pidRead_running]
  exact ⟨coreAt_packetA, by decide, by decide⟩

/-- Three units A, of a PID that holds A. -/
def threeA : State := heldA false (running (packetA ++ packetA ++ packetA))

theorem runsTo_of {s : State} {h : Hdr} {afc : BitVec 2} {p : List Byte} (hp : CoreAt s p) :
    ∃ t r, RunsTo (routedForm h afc) s t r ∧ t.frm.pos = s.frm.pos + s.frm.stride.setWidth 64 ∧
      t.frm.stride = s.frm.stride ∧ t.frm.lead = s.frm.lead ∧ t.ports.stream = s.ports.stream ∧
      r.dup = isDup (verdictBefore h afc p s) := by
  obtain ⟨u, h1, h2, -⟩ := routedUnit_spec h afc p s
  unfold OnlyPidState at h2
  refine ⟨_, _, ⟨exec_routedForm h afc hp, by rw [h1, h2]; rfl⟩, ?_, ?_, ?_, ?_, rfl⟩
  all_goals rw [h1, h2]; rfl

theorem witness_OnlyOneRepeatIsTolerated : ∃ t u v r₁ r₂ r₃, CoreAt threeA packetA ∧ CoreAt t packetA ∧
    CoreAt u packetA ∧ RunsTo (routedForm (hdr false 5) 1) threeA t r₁ ∧ RunsTo (routedForm (hdr false 5) 1) t u r₂ ∧
    RunsTo (routedForm (hdr false 5) 1) u v r₃ ∧ r₁.dup = true := by
  have hs : CoreAt threeA packetA :=
    coreAt_of (pre := []) (post := packetA ++ packetA) (by simp [threeA, heldA, knowing, running]) rfl rfl rfl
      length_packetA
  obtain ⟨t, r₁, e1, p1, st1, l1, s1, d1⟩ := runsTo_of (h := hdr false 5) (afc := 1) hs
  have ht : CoreAt t packetA :=
    coreAt_of (pre := packetA) (post := packetA) (by rw [s1]; simp [threeA, heldA, knowing, running])
      (by rw [p1, length_packetA]; rfl) (by rw [st1]; rfl) (by rw [l1]; rfl) length_packetA
  obtain ⟨u, r₂, e2, p2, st2, l2, s2, -⟩ := runsTo_of (h := hdr false 5) (afc := 1) ht
  have hu : CoreAt u packetA :=
    coreAt_of (pre := packetA ++ packetA) (post := []) (by rw [s2, s1]; simp [threeA, heldA, knowing, running])
      (by rw [p2, p1, st1, List.length_append, length_packetA]; rfl) (by rw [st2, st1]; rfl) (by rw [l2, l1]; rfl)
      length_packetA
  obtain ⟨v, r₃, e3, -⟩ := runsTo_of (h := hdr false 5) (afc := 1) hu
  refine ⟨t, u, v, r₁, r₂, r₃, hs, ht, hu, e1, e2, e3, ?_⟩
  rw [d1, threeA, verdictBefore_heldA]
  simp [continuity, recWith, isDup]

/-! ## Registers and independence -/

theorem witness_RegisterAccessesOutsideTheMapDoNothing : 0x0E0 ≤ (0x0E0 : BitVec 12).toNat ∧
    ((0x0E0 : BitVec 12) &&& 0xFF8 ≠ 0x000 ∧ (0x0E0 : BitVec 12) &&& 0xFF8 ≠ 0x010 ∧
      (0x0E0 : BitVec 12) &&& 0xFF8 ≠ 0x090 ∧ (0x0E0 : BitVec 12) &&& 0xFF8 ≠ 0x098) := by decide

theorem witness_WritableRegistersTakeTheirFields : (inState .run).frm.fstate ≠ .idle ∧ State.reset.frm.fstate = .idle ∧
    (0x1E : Word64).getLsbD 0 = false ∧ (0x01 : Word64).getLsbD 0 = true := by decide

theorem witness_FramerStepCommutesWithUnitCommands : isCrcCmd (.crcByte 1) = true ∧ isBcCmd .bcRdse = true ∧
    ∃ u, framerStep (running packetA) = .next u := ⟨rfl, rfl, next_of_after (by decide +kernel)⟩

theorem witness_UnwrittenLastPacketsAreUnobservable :
    SameButUnreadLast (running packetA) (lastWrite 0x41 packetA (running packetA)) ∧
    lastWrite 0x41 packetA (running packetA) ≠ running packetA ∧ ∃ t, step (running packetA) = .next t := by
  refine ⟨⟨rfl, fun pid h => ?_⟩, fun h => ?_, step_running⟩
  · rw [pidRead_running] at h
    simp [PidRec.reset] at h
  · have h2 := congrArg (fun s => lastRead s 0x41) h
    simp only [lastRead_lastWrite] at h2
    have h3 := congrArg (fun p => p.getD 0 0) h2
    revert h3
    decide

/-! ## The other two parties -/

/-- A framer in this state, a source with two bytes and its end, and this turn. -/
def sourcing (f : FState) (t : Turn) : State :=
  { inState f with ports.input := [0x47, 0x01], ports.inputEnds := true, ports.turns := [t] }

/-- The source before the start, with and without its last byte; a source that starts over; the sink; FRM.START. -/
theorem witness_SourceAndSinkMovesTransferInOrder :
    ((sourcing .idle (.source 1)).ports.turns = [.source 1] ∧
      ¬ (((sourcing .idle (.source 1)).frm.fstate = .probe ∨ (sourcing .idle (.source 1)).frm.fstate = .run) ∧
        (sourcing .idle (.source 1)).ports.streamEnd = false)) ∧
    ((sourcing .probe (.source 2)).frm.fstate = .probe ∧ (sourcing .probe (.source 2)).ports.streamEnd = false ∧
      (sourcing .run (.source 1)).frm.fstate = .run ∧ (sourcing .run (.source 1)).ports.streamEnd = false) ∧
    (sourcing .idle (.present [] true)).ports.turns = [.present [] true] ∧
    (sourcing .run (.sink 1)).ports.turns = [.sink 1] ∧
    (sourcing .idle .framer).frm.fstate = .idle := by decide

/-- The first of two bytes, and both, hand over the end mark only with the last. -/
theorem test_source_marks_end_with_last_byte :
    see (fun t => (t.ports.stream, t.ports.streamEnd)) (step (sourcing .probe (.source 1))) = some ([0x47], false) ∧
    see (fun t => (t.ports.stream, t.ports.streamEnd)) (step (sourcing .probe (.source 2))) =
      some ([0x47, 0x01], true) := by decide

end Sys2Proof.Tests
end

/-! PROOFS. The invariants of the state. First, said once: what a command does beside RESP, and what one step can do to
the framer, to the bit cursor, to RESP and to CFG; then the register map; then each invariant, by cases on these. -/

namespace Sys2Proof.Machine

open Sys2Proof

/-! ## What a command does beside RESP -/

/-- What a command or a write of BC_STATUS can do to the bit cursor, of capacity `cap`; a reset is the other change. -/
inductive BcEffect (cap : Nat) (b : BitCursor) : BitCursor → Prop where
  | status (e : Bool) (c : Cause) : BcEffect cap b { b with errSticky := e, lastCause := c }
  | read (n : Nat) (h : b.bitPos + n ≤ 8 * b.bufLen) : BcEffect cap b { b with bitPos := b.bitPos + n }
  | clear : BcEffect cap b { b with bufLen := 0, bitPos := 0, errSticky := false, lastCause := .none }
  | push (v : Byte) (h : b.bufLen ≠ cap) :
    BcEffect cap b { b with buf := b.buf.write b.bufLen v, bufLen := b.bufLen + 1 }
  | align : BcEffect cap b { b with bitPos := 8 * ((b.bitPos + 7) / 8) }

theorem BcEffect.refl (cap : Nat) (b : BitCursor) : BcEffect cap b b := .status b.errSticky b.lastCause

/-- What a command can do to the state before it answers. -/
inductive CmdEffect (i : Instr) (s : State) : State → Prop where
  | none : CmdEffect i s s
  | reset (h : i = .sysReset) : CmdEffect i s (hardReset s)
  | start (hf : s.frm.fstate = .idle) (e e' : Bool) :
    CmdEffect i s { s with frm.fstate := .probe, ports.streamEnd := e, ports.inputEnds := e' }
  | request : CmdEffect i s { s with frm.abortReq := true }
  | crc (u : CrcUnit) : CmdEffect i s { s with crc := u }
  | bc (b : BitCursor) (h : BcEffect s.params.bcBufBytes s.bc b) : CmdEffect i s { s with bc := b }

/-- A command of the bit cursor does one thing to the cursor and answers (R250). -/
theorem exec_bc_effect {i : Instr} {s t : State} (hi : isBcCmd i = true) (h : exec i s = .next t) :
    ∃ opc c v b, BcEffect s.params.bcBufBytes s.bc b ∧ (c ≠ .none → v = 0) ∧
      t = respond opc c v { s with bc := b } := by
  rcases exec_bc_cases i s hi with
    ⟨opc, c, _, h'⟩ | ⟨opc, v, n, hn, h'⟩ | ⟨v, _, h'⟩ | ⟨_, h'⟩ | ⟨b, _, hb, h'⟩ | ⟨_, h'⟩
  all_goals cases Host.Outcome.next.inj (h.symm.trans h')
  · exact ⟨opc, c, 0, _, .status true c, fun _ => rfl, rfl⟩
  · exact ⟨opc, .none, v, _, .read n hn, fun hc => absurd rfl hc, rfl⟩
  · exact ⟨opcBcRem, .none, v, _, .refl _ _, fun hc => absurd rfl hc, rfl⟩
  · exact ⟨opcBcClear, .none, 0, _, .clear, fun _ => rfl, rfl⟩
  · exact ⟨opcBcPush, .none, _, _, .push b hb, fun hc => absurd rfl hc, rfl⟩
  · exact ⟨opcBcAlign, .none, 0, _, .align, fun _ => rfl, rfl⟩

/-- Every command does one thing to the state and answers; a failure answers 0 (R40). -/
theorem exec_cw32_effect {i : Instr} {s t : State} (hi : i.format = .cw32) (h : exec i s = .next t) :
    ∃ opc c v u, CmdEffect i s u ∧ (c ≠ .none → v = 0) ∧ t = respond opc c v u := by
  rcases cw32_cases i hi with rfl | rfl | rfl | hc | hb
  · exact ⟨opcSysReset, .none, 0, _, .reset rfl, fun _ => rfl, exec_sysReset_inv h⟩
  · rcases exec_frmStart s with ⟨hf, h'⟩ | ⟨_, h'⟩
    all_goals cases Host.Outcome.next.inj (h.symm.trans h')
    · exact ⟨opcFrmStart, .none, 0, _, .start hf _ _, fun _ => rfl, rfl⟩
    · exact ⟨opcFrmStart, .badState, 0, s, .none, fun _ => rfl, rfl⟩
  · rcases exec_frmAbort s with ⟨_, h'⟩ | ⟨_, h'⟩
    all_goals cases Host.Outcome.next.inj (h.symm.trans h')
    · exact ⟨opcFrmAbort, .none, 0, _, .request, fun _ => rfl, rfl⟩
    · exact ⟨opcFrmAbort, .badState, 0, s, .none, fun _ => rfl, rfl⟩
  · obtain ⟨opc, v, u, h'⟩ := exec_crc_cases i s hc
    cases Host.Outcome.next.inj (h.symm.trans h')
    exact ⟨opc, .none, v, _, .crc u, fun hc => absurd rfl hc, rfl⟩
  · obtain ⟨opc, c, v, b, hb, hv, rfl⟩ := exec_bc_effect hb h
    exact ⟨opc, c, v, _, .bc b hb, hv, rfl⟩

/-! ## What a step does to the framer -/

@[simp] theorem writeCfg_frm (v : Word64) (s : State) : (writeCfg v s).frm = s.frm := by
  unfold writeCfg; split <;> rfl
@[simp] theorem writeCfg_bc (v : Word64) (s : State) : (writeCfg v s).bc = s.bc := by
  unfold writeCfg; split <;> rfl
@[simp] theorem writeCfg_resp (v : Word64) (s : State) : (writeCfg v s).resp = s.resp := by
  unfold writeCfg; split <;> rfl
@[simp] theorem writeCfg_params (v : Word64) (s : State) : (writeCfg v s).params = s.params := by
  unfold writeCfg; split <;> rfl
@[simp] theorem writeBcStatus_frm (v : Word64) (s : State) : (writeBcStatus v s).frm = s.frm := by
  unfold writeBcStatus; split <;> rfl
@[simp] theorem writeBcStatus_cfg (v : Word64) (s : State) : (writeBcStatus v s).cfg = s.cfg := by
  unfold writeBcStatus; split <;> rfl
@[simp] theorem writeBcStatus_resp (v : Word64) (s : State) : (writeBcStatus v s).resp = s.resp := by
  unfold writeBcStatus; split <;> rfl
@[simp] theorem writeBcStatus_params (v : Word64) (s : State) : (writeBcStatus v s).params = s.params := by
  unfold writeBcStatus; split <;> rfl
@[simp] theorem sourceStep_frm (n : Nat) (s : State) : (sourceStep n s).frm = s.frm := by
  unfold sourceStep; split <;> rfl
@[simp] theorem sourceStep_bc (n : Nat) (s : State) : (sourceStep n s).bc = s.bc := by
  unfold sourceStep; split <;> rfl
@[simp] theorem sourceStep_cfg (n : Nat) (s : State) : (sourceStep n s).cfg = s.cfg := by
  unfold sourceStep; split <;> rfl
@[simp] theorem sourceStep_resp (n : Nat) (s : State) : (sourceStep n s).resp = s.resp := by
  unfold sourceStep; split <;> rfl
@[simp] theorem sourceStep_params (n : Nat) (s : State) : (sourceStep n s).params = s.params := by
  unfold sourceStep; split <;> rfl

/-- The probe step touches the framer alone (R157, R158). -/
theorem probeStep_only_frm (s : State) : probeStep s = { s with frm := (probeStep s).frm } := by
  rcases probeStep_cases s with ⟨row, _, _, he⟩ | ⟨_, he⟩ <;> rw [he]
  rfl

/-- A packet form touches the framer and the record output alone (R93). -/
theorem exec_form_only_frm {i : Instr} {s t : State} (hi : i.format = .tspH) (h : exec i s = .next t) :
    t = { s with frm := t.frm, ports.recPort := t.ports.recPort } := by
  obtain ⟨r, ht, -⟩ := exec_form_frame hi h
  rw [ht]

/-- What one step can do to the framer's state; `r` says that a reset is next. -/
inductive FrmEffect (r : Prop) (f : Framer) : Framer → Prop where
  | same : FrmEffect r f f
  | reset (h : r) : FrmEffect r f Framer.reset
  | start (hf : f.fstate = .idle) : FrmEffect r f { f with fstate := .probe }
  | request : FrmEffect r f { f with abortReq := true }
  | lock (row : StrideRow) (hrow : row ∈ strideTable) (hf : f.fstate = .probe) :
    FrmEffect r f { f with fstate := .run, stride := row.stride, lead := row.lead, trail := row.trail }
  | fail (hf : f.fstate = .probe) : FrmEffect r f { f with fstate := .fail }
  | finish (hf : f.fstate = .run) : FrmEffect r f { f with fstate := .done }
  | abort (hf : f.fstate = .probe ∨ f.fstate = .run) : FrmEffect r f { f with fstate := .aborted }
  | packet (i : Instr) (s t : State) (hs : s.frm = f) (hf : f.fstate = .run) (hi : i.format = .tspH)
    (h : exec i s = .next t) : FrmEffect r f t.frm

theorem exec_cw32_frmEffect {r : Prop} {i : Instr} {s t : State} (hi : i.format = .cw32) (hr : i = .sysReset → r)
    (h : exec i s = .next t) : FrmEffect r s.frm t.frm := by
  obtain ⟨_, _, _, u, hu, -, rfl⟩ := exec_cw32_effect hi h
  cases hu with
  | none | crc | bc => exact .same
  | reset hreset => exact .reset (hr hreset)
  | start hf => exact .start hf
  | request => exact .request

/-- A turn at the head of the list that resets is a reset that is next. -/
theorem resetIsNext_of_head {s : State} {t : Turn} (h : s.ports.turns.head? = some t)
    (ht : t = .host .reset ∨ turnCmd t = some .sysReset) : ResetIsNext s := by
  obtain ⟨ts, hts⟩ := List.head?_eq_some_iff.1 h
  exact ⟨t, ts, hts, ht⟩

theorem step_frmEffect {s s' : State} (h : step s = .next s') : FrmEffect (ResetIsNext s) s.frm s'.frm := by
  rw [← dropTurn_frm s]
  cases step_move h with
  | stay | read | illegal | sink | present | writePidSel => exact .same
  | writeCfg v => rw [writeCfg_frm]; exact .same
  | writeBcStatus v => rw [writeBcStatus_frm]; exact .same
  | source n => rw [sourceStep_frm]; exact .same
  | reset ho => exact .reset (resetIsNext_of_head ho (.inl rfl))
  | command i t hi ho h =>
    refine exec_cw32_frmEffect hi (fun hr => ?_) h
    obtain ⟨u, hu, hc⟩ := Option.bind_eq_some_iff.1 ho
    exact resetIsNext_of_head hu (.inr (hr ▸ hc))
  | probe hf hp =>
    rcases probeStep_cases (dropTurn s) with ⟨row, hrow, _, he⟩ | ⟨_, he⟩ <;> rw [he]
    · exact .lock row hrow hf
    · exact .fail hf
  | packet i t hf hp hi h => exact .packet i _ _ rfl hf hi h
  | finish hf hp hu he => exact .finish hf
  | abort hf hp => exact .abort hf

/-! ## What a step does to the bit cursor -/

/-- A step does one of the cursor's own changes or resets the cursor; the static parameters stay (R4). -/
theorem step_bcEffect {s s' : State} (h : step s = .next s') :
    s'.params = s.params ∧ (BcEffect s.params.bcBufBytes s.bc s'.bc ∨ s'.bc = BitCursor.reset) := by
  have hsame : BcEffect s.params.bcBufBytes s.bc s.bc := .refl _ _
  cases step_move h with
  | stay | read | illegal | sink | present | writePidSel => exact ⟨rfl, .inl hsame⟩
  | finish | abort => exact ⟨rfl, .inl hsame⟩
  | writeCfg v => exact ⟨by simp, .inl (by simpa using hsame)⟩
  | source n => exact ⟨by simp, .inl (by simpa using hsame)⟩
  | probe => rw [probeStep_only_frm]; exact ⟨rfl, .inl hsame⟩
  | packet i t hf hp hi h => rw [exec_form_only_frm hi h]; exact ⟨rfl, .inl hsame⟩
  | reset => exact ⟨rfl, .inr rfl⟩
  | writeBcStatus v =>
    refine ⟨by simp, .inl ?_⟩
    unfold writeBcStatus
    split
    · exact .status false .none
    · exact hsame
  | command i t hi ho h =>
    obtain ⟨_, _, _, u, hu, -, rfl⟩ := exec_cw32_effect hi h
    cases hu with
    | none | start | request | crc => exact ⟨rfl, .inl hsame⟩
    | reset => exact ⟨rfl, .inr rfl⟩
    | bc b hb => exact ⟨rfl, .inl hb⟩

/-! ## What a step does to RESP and CFG -/

/-- RESP stays, is reset, or takes an answer in which a failure has the value 0 (R40). -/
theorem step_resp {s s' : State} (h : step s = .next s') :
    s'.resp = s.resp ∨ s'.resp = Resp.reset ∨
      ∃ opc c v, (c ≠ .none → v = 0) ∧ s'.resp = { opc, err := decide (c ≠ .none), cause := c, value := v } := by
  cases step_move h with
  | stay | read | sink | present | writePidSel | finish | abort => exact .inl rfl
  | writeCfg v => exact .inl (by simp)
  | writeBcStatus v => exact .inl (by simp)
  | source n => exact .inl (by simp)
  | probe => rw [probeStep_only_frm]; exact .inl rfl
  | packet i t hf hp hi h => rw [exec_form_only_frm hi h]; exact .inl rfl
  | reset => exact .inr (.inl rfl)
  | illegal opc => exact .inr (.inr ⟨opc, .illegalCmd, 0, fun _ => rfl, rfl⟩)
  | command i t hi ho h =>
    obtain ⟨opc, c, v, u, -, hv, rfl⟩ := exec_cw32_effect hi h
    exact .inr (.inr ⟨opc, c, v, hv, rfl⟩)

/-- CFG stays, is reset, or takes a write field by field (R41). -/
theorem step_cfg {s s' : State} (h : step s = .next s') :
    s'.cfg = s.cfg ∨ s'.cfg = Cfg.reset ∨ ∃ v, s'.cfg = cfgMerge s.cfg v := by
  cases step_move h with
  | stay | read | sink | present | writePidSel | finish | abort | illegal => exact .inl rfl
  | writeBcStatus v => exact .inl (by simp)
  | source n => exact .inl (by simp)
  | probe => rw [probeStep_only_frm]; exact .inl rfl
  | packet i t hf hp hi h => rw [exec_form_only_frm hi h]; exact .inl rfl
  | reset => exact .inr (.inl rfl)
  | writeCfg v =>
    unfold writeCfg
    split
    · exact .inr (.inr ⟨v, rfl⟩)
    · exact .inl rfl
  | command i t hi ho h =>
    obtain ⟨_, _, _, u, hu, -, rfl⟩ := exec_cw32_effect hi h
    cases hu with
    | none | start | request | crc | bc => exact .inl rfl
    | reset => exact .inr (.inl rfl)

/-! ## Register reads -/

/-- RESP (R40). -/
theorem respWord_fields (r : Resp) :
    (respWord r).extractLsb' 0 32 = r.value ∧ (respWord r).extractLsb' 32 4 = causeCode r.cause ∧
      (respWord r).getLsbD 36 = r.err ∧ (respWord r).extractLsb' 37 3 = 0 ∧ (respWord r).extractLsb' 40 8 = r.opc ∧
      (respWord r).extractLsb' 48 16 = 0 := by
  refine ⟨?_, ?_, by simp only [respWord, BitVec.getLsbD_append]; simp, ?_, ?_, ?_⟩
  all_goals
    unfold respWord
    repeat rw [BitVec.extractLsb'_append_eq_of_le (by decide)]
  · exact BitVec.extractLsb'_append_eq_right
  · exact BitVec.extractLsb'_append_eq_right
  · exact BitVec.extractLsb'_append_eq_right
  · exact BitVec.extractLsb'_append_eq_right
  · exact BitVec.extractLsb'_eq_self

/-- CFG (R41). -/
theorem cfgWord_fields (c : Cfg) :
    (cfgWord c).extractLsb' 0 8 = c.probeMinRun ∧ (cfgWord c).extractLsb' 8 16 = c.probeWindow ∧
      (cfgWord c).extractLsb' 24 3 = c.strideMode ∧ (cfgWord c).extractLsb' 27 37 = 0 := by
  refine ⟨?_, ?_, ?_, ?_⟩
  all_goals
    unfold cfgWord
    repeat rw [BitVec.extractLsb'_append_eq_of_le (by decide)]
  · exact BitVec.extractLsb'_append_eq_right
  · exact BitVec.extractLsb'_append_eq_right
  · exact BitVec.extractLsb'_append_eq_right
  · exact BitVec.extractLsb'_eq_self

/-- FRM_STATUS (R42). -/
theorem frmStatusWord_fields (f : Framer) :
    (frmStatusWord f).extractLsb' 0 3 = fstateCode f.fstate ∧ (frmStatusWord f).getLsbD 3 = f.abortReq ∧
      (frmStatusWord f).extractLsb' 4 4 = 0 ∧ (frmStatusWord f).extractLsb' 8 8 = f.stride ∧
      (frmStatusWord f).getLsbD 16 = f.lead ∧ (frmStatusWord f).getLsbD 17 = f.trail ∧
      (frmStatusWord f).extractLsb' 18 46 = 0 := by
  refine ⟨?_, by simp only [frmStatusWord, BitVec.getLsbD_append]; simp, ?_, ?_,
    by simp only [frmStatusWord, BitVec.getLsbD_append]; simp,
    by simp only [frmStatusWord, BitVec.getLsbD_append]; simp, ?_⟩
  all_goals
    unfold frmStatusWord
    repeat rw [BitVec.extractLsb'_append_eq_of_le (by decide)]
  · exact BitVec.extractLsb'_append_eq_right
  · exact BitVec.extractLsb'_append_eq_right
  · exact BitVec.extractLsb'_append_eq_right
  · exact BitVec.extractLsb'_eq_self

/-- BC_STATUS (R45). -/
theorem bcStatusWord_fields (b : BitCursor) :
    (bcStatusWord b).getLsbD 0 = b.errSticky ∧ (bcStatusWord b).extractLsb' 1 4 = causeCode b.lastCause ∧
      (bcStatusWord b).extractLsb' 5 59 = 0 := by
  refine ⟨by simp only [bcStatusWord, BitVec.getLsbD_append]; simp, ?_, ?_⟩
  all_goals
    unfold bcStatusWord
    repeat rw [BitVec.extractLsb'_append_eq_of_le (by decide)]
  · exact BitVec.extractLsb'_append_eq_right
  · exact BitVec.extractLsb'_eq_self

/-- PID_INFO (R46). -/
theorem pidInfoWord_fields (x : PidRec) :
    (pidInfoWord x).getLsbD 0 = x.valid ∧ (pidInfoWord x).extractLsb' 1 2 = roleCode x.role ∧
      (pidInfoWord x).extractLsb' 3 4 = x.lastCc ∧ (pidInfoWord x).getLsbD 7 = x.hasCc ∧
      (pidInfoWord x).getLsbD 8 = x.dupSeen ∧ (pidInfoWord x).extractLsb' 9 55 = 0 := by
  refine ⟨by simp only [pidInfoWord, BitVec.getLsbD_append]; simp, ?_, ?_,
    by simp only [pidInfoWord, BitVec.getLsbD_append]; simp,
    by simp only [pidInfoWord, BitVec.getLsbD_append]; simp, ?_⟩
  all_goals
    unfold pidInfoWord
    repeat rw [BitVec.extractLsb'_append_eq_of_le (by decide)]
  · exact BitVec.extractLsb'_append_eq_right
  · exact BitVec.extractLsb'_append_eq_right
  · exact BitVec.extractLsb'_eq_self

/-- CRC_STATUS (R44). -/
theorem crcStatusWord_fields (b : Bool) :
    ((flag b).setWidth 64).getLsbD 0 = b ∧ ((flag b).setWidth 64).extractLsb' 1 63 = 0 := by
  cases b <;> decide

/-- Settles O55: a read at a slot's address is the slot's word, and each packed word has its fields at their bits. -/
theorem registerReadsReturnTheFields : Obligations.RegisterReadsReturnTheFields := by
  unfold Obligations.RegisterReadsReturnTheFields
  refine ⟨rfl, rfl, rfl, rfl, rfl, rfl, rfl, rfl, rfl, rfl, rfl, rfl, rfl, rfl, rfl, rfl, fun s => ?_⟩
  have hread := regRead_slotAddr s
  have hresp : regRead s 0x008 = respWord s.resp := hread .resp
  have hcfg : regRead s 0x010 = cfgWord s.cfg := hread .cfg
  have hfrm : regRead s 0x018 = frmStatusWord s.frm := hread .frmStatus
  have hcrc : regRead s 0x070 = (flag s.crc.matched).setWidth 64 := hread .crcStatus
  have hbc : regRead s 0x090 = bcStatusWord s.bc := hread .bcStatus
  have hinfo : regRead s 0x0A0 = pidInfoWord s.pidWin := hread .pidInfo
  rw [hresp, hcfg, hfrm, hcrc, hbc, hinfo]
  obtain ⟨hvalue, hcause, herr, hresp37, hopc, hresp48⟩ := respWord_fields s.resp
  obtain ⟨hrun, hwindow, hmode, hcfg27⟩ := cfgWord_fields s.cfg
  obtain ⟨hfstate, habort, hfrm4, hstride, hlead, htrail, hfrm18⟩ := frmStatusWord_fields s.frm
  obtain ⟨hmatch, hcrc1⟩ := crcStatusWord_fields s.crc.matched
  obtain ⟨hsticky, hlast, hbc5⟩ := bcStatusWord_fields s.bc
  obtain ⟨hvalid, hrole, hlastCc, hhasCc, hdupSeen, hinfo9⟩ := pidInfoWord_fields s.pidWin
  exact ⟨hread .cmd, hvalue, hcause, herr, hopc, hrun, hwindow, hmode, hfstate, habort, hstride, hlead, htrail,
    hread .pktCount, hread .syncErrors, hread .teiCount, hread .ccErrors, hread .dupCount, hread .afErrors,
    hread .roleErrors, hread .pidCount, hread .streamPos, hread .crcReg, hmatch, hread .crcErrors, hread .bcPos,
    hread .bcLen, hsticky, hlast, hread .pidSel, hresp37, hresp48, hcfg27, hfrm4, hfrm18, hcrc1, hbc5, hinfo9, hvalid,
    hrole, hlastCc, hhasCc, hdupSeen, hread .pidPktCnt, hread .pidDupCnt, hread .pidCcErrCnt, hread .pidAfErrCnt,
    hread .pidRoleErrCnt, hread .bcCap, hread .cancelInterval⟩

/-! ## Register writes and the addresses outside the map -/

/-- R83: the low three address bits are ignored. -/
theorem slotAt_and (a : BitVec 12) : slotAt (a &&& 0xFF8) = slotAt a := by
  unfold slotAt
  rw [BitVec.and_assoc, BitVec.and_self]

/-- R36, R37: three slots besides CMD can be written. -/
theorem writeSlot_readOnly {sl : Slot} (v : Word64) (s : State) (h1 : sl ≠ .cfg) (h2 : sl ≠ .bcStatus)
    (h3 : sl ≠ .pidSel) : writeSlot sl v s = s := by
  cases sl with
  | cfg => exact absurd rfl h1
  | bcStatus => exact absurd rfl h2
  | pidSel => exact absurd rfl h3
  | cmd | resp | frmStatus | pktCount | syncErrors | teiCount | ccErrors | dupCount | afErrors | roleErrors => rfl
  | pidCount | streamPos | crcReg | crcStatus | crcErrors | bcPos | bcLen | pidInfo | pidPktCnt | pidDupCnt => rfl
  | pidCcErrCnt | pidAfErrCnt | pidRoleErrCnt | bcCap | cancelInterval => rfl

theorem hostWrite_of_slotAt {a : BitVec 12} {sl : Slot} (hs : slotAt a = some sl) (h : sl ≠ .cmd) (v : Word64)
    (s : State) : hostWrite a v s = .next (writeSlot sl v s) := by
  simp only [hostWrite, hs]

theorem hostWrite_of_no_slot {a : BitVec 12} (hs : slotAt a = none) (v : Word64) (s : State) :
    hostWrite a v s = .next s := by
  simp only [hostWrite, hs]

/-- R37: a write that reaches none of CMD, CFG, BC_STATUS and PID_SEL is ignored. -/
theorem hostWrite_ignored {a : BitVec 12} (v : Word64) (s : State) (h0 : a &&& 0xFF8 ≠ 0x000)
    (h1 : a &&& 0xFF8 ≠ 0x010) (h2 : a &&& 0xFF8 ≠ 0x090) (h3 : a &&& 0xFF8 ≠ 0x098) :
    hostWrite a v s = .next s := by
  cases hs : slotAt a with
  | none => exact hostWrite_of_no_slot hs v s
  | some sl =>
    have ha := (slotAt_eq_some_iff a sl).1 hs
    rw [ha] at h0 h1 h2 h3
    have hne : ∀ other, slotAddr sl ≠ slotAddr other → sl ≠ other := fun _ hn he => hn (congrArg slotAddr he)
    rw [hostWrite_of_slotAt hs (hne .cmd h0), writeSlot_readOnly v s (hne .cfg h1) (hne .bcStatus h2) (hne .pidSel h3)]

/-- R37, R39: CMD and the addresses above the map read 0. -/
theorem regRead_eq_zero {a : BitVec 12} (s : State) (h : a &&& 0xFF8 = 0x000 ∨ 0x0E0 ≤ a.toNat) : regRead s a = 0 := by
  rcases h with h | h
  · simp only [regRead, (slotAt_eq_some_iff a .cmd).2 h, readSlot]
  · simp only [regRead, slotAt_eq_none h]

/-- Settles O56: an access acts on the slot at its address, and three slots besides CMD can be written. -/
theorem registerAccessesOutsideTheMapDoNothing : Obligations.RegisterAccessesOutsideTheMapDoNothing := by
  unfold Obligations.RegisterAccessesOutsideTheMapDoNothing
  intro s a
  refine ⟨⟨_, rfl, rfl⟩, ?_, fun v => ?_, regRead_eq_zero s, fun v => hostWrite_ignored v s⟩
  · simp only [regRead, slotAt_and]
  · simp only [hostAccess, hostWrite, slotAt_and]

/-- Settles O57: a write at the address of CFG, BC_STATUS or PID_SEL is the write of that slot. -/
theorem writableRegistersTakeTheirFields : Obligations.WritableRegistersTakeTheirFields := by
  unfold Obligations.WritableRegistersTakeTheirFields
  intro s v
  have hcfg : hostAccess (.write 0x010 v) s = .next (writeCfg v s) := hostWrite_slotAddr s .cfg v (by decide)
  have hbc : hostAccess (.write 0x090 v) s = .next (writeBcStatus v s) := hostWrite_slotAddr s .bcStatus v (by decide)
  have hpid : hostAccess (.write 0x098 v) s = .next (writePidSel v s) := hostWrite_slotAddr s .pidSel v (by decide)
  rw [hcfg, hbc, hpid]
  refine ⟨fun hf => ?_, fun hf => ⟨{ s with cfg := cfgMerge s.cfg v }, ?_, rfl, rfl, rfl, rfl⟩, fun hv => ?_,
    fun hv => ?_, rfl⟩
  · rw [writeCfg, if_neg hf]
  · rw [writeCfg, if_pos hf]
  · rw [writeBcStatus, if_neg (by rw [hv]; exact Bool.false_ne_true)]
  · rw [writeBcStatus, if_pos hv]

/-! ## The bit cursor, RESP and CFG -/

/-- A codeword, a field or an alignment inside the loaded bits leaves BITPOS inside them (R34). -/
theorem BcEffect.cursor_inside {cap : Nat} {b c : BitCursor} (h : BcEffect cap b c) (h1 : b.bitPos ≤ 8 * b.bufLen)
    (h2 : b.bufLen ≤ cap) : c.bitPos ≤ 8 * c.bufLen ∧ c.bufLen ≤ cap := by
  cases h with
  | status => exact ⟨h1, h2⟩
  | read n hn => exact ⟨hn, h2⟩
  | clear => exact ⟨Nat.zero_le _, Nat.zero_le _⟩
  | push v hb => constructor <;> simp only <;> omega
  | align => constructor <;> simp only <;> omega

/-- Settles O22: every change of the cursor keeps BITPOS inside the loaded bits and BUF_LEN inside the capacity. -/
theorem stepKeepsCursorInsideBuffer : Obligations.StepKeepsCursorInsideBuffer := by
  unfold Obligations.StepKeepsCursorInsideBuffer
  rintro s s' ⟨h1, h2⟩ h
  obtain ⟨hp, hb | hb⟩ := step_bcEffect h <;> unfold CursorOk <;> rw [hp]
  · exact hb.cursor_inside h1 h2
  · rw [hb]
    exact ⟨Nat.zero_le _, Nat.zero_le _⟩

theorem step_keeps_respOk {s s' : State} (hs : RespOk s) (h : step s = .next s') : RespOk s' := by
  unfold RespOk at *
  rcases step_resp h with hr | hr | ⟨opc, c, v, hv, hr⟩ <;> rw [hr]
  · exact hs
  · simp [Resp.reset]
  · simpa using hv

/-- R41: a field that is written keeps its old value unless the new one is legal. -/
theorem cfgMerge_legal {c : Cfg} (v : Word64)
    (h : 1 ≤ c.probeMinRun.toNat ∧ 1 ≤ c.probeWindow.toNat ∧ c.strideMode.toNat ≤ 4) :
    1 ≤ (cfgMerge c v).probeMinRun.toNat ∧ 1 ≤ (cfgMerge c v).probeWindow.toNat ∧
      (cfgMerge c v).strideMode.toNat ≤ 4 := by
  have hpos : ∀ {n} {x y : BitVec n}, 1 ≤ y.toNat → 1 ≤ (if x = 0 then y else x).toNat := fun {n x y} hy => by
    split_ifs with hx
    · exact hy
    · exact Nat.one_le_iff_ne_zero.2 fun h0 => hx (BitVec.eq_of_toNat_eq (by simpa using h0))
  refine ⟨hpos h.1, hpos h.2.1, ?_⟩
  by_cases hm : 4 < (v.extractLsb' 24 3).toNat
  · simpa only [cfgMerge, if_pos hm] using h.2.2
  · simpa only [cfgMerge, if_neg hm] using Nat.not_lt.1 hm

theorem step_keeps_cfgOk {s s' : State} (hs : CfgOk s) (h : step s = .next s') : CfgOk s' := by
  unfold CfgOk at *
  rcases step_cfg h with hc | hc | ⟨v, hc⟩ <;> rw [hc]
  · exact hs
  · decide
  · exact cfgMerge_legal v hs

/-- Settles O42: an answer is consistent, and a write of CFG takes legal fields only. -/
theorem stepKeepsRespAndCfgLegal : Obligations.StepKeepsRespAndCfgLegal := by
  unfold Obligations.StepKeepsRespAndCfgLegal
  exact fun s s' hr hc h => ⟨step_keeps_respOk hr h, step_keeps_cfgOk hc h⟩

/-! ## STRIDE, LEAD, TRAIL and FSTATE -/

/-- R3: a row of the stride table agrees with itself. -/
theorem strideTable_agrees {row : StrideRow} (h : row ∈ strideTable) :
    (row.lead = true ↔ row.stride = 192 ∨ row.stride = 208) ∧
      (row.trail = true ↔ row.stride = 204 ∨ row.stride = 208) ∧
      row.stride ∈ ([188, 192, 204, 208] : List (BitVec 8)) := by
  revert row
  decide

/-- Settles O38: only the lock writes the stride, from the table of R3; every other change of FSTATE keeps it. -/
theorem stepKeepsStrideInAgreement : Obligations.StepKeepsStrideInAgreement := by
  unfold Obligations.StepKeepsStrideInAgreement StrideOk
  rintro s s' ⟨hlead, htrail, hnone, hlocked, haborted⟩ h
  have he := step_frmEffect h
  generalize s'.frm = f' at he ⊢
  cases he with
  | same | request => exact ⟨hlead, htrail, hnone, hlocked, haborted⟩
  | reset => decide
  | start hf => exact ⟨hlead, htrail, fun _ => hnone (.inl hf), by simp, by simp⟩
  | lock row hrow =>
    obtain ⟨h1, h2, h3⟩ := strideTable_agrees hrow
    exact ⟨h1, h2, by simp, fun _ => h3, by simp⟩
  | fail hf => exact ⟨hlead, htrail, fun _ => hnone (.inr (.inl hf)), by simp, by simp⟩
  | finish hf => exact ⟨hlead, htrail, by simp, fun _ => hlocked (.inl hf), by simp⟩
  | abort hf =>
    refine ⟨hlead, htrail, by simp, by simp, fun _ => ?_⟩
    rcases hf with hf | hf
    · simp [hnone (.inr (.inl hf))]
    · exact List.mem_cons_of_mem _ (hlocked (.inl hf))
  | packet i u t hu hf hi hx =>
    obtain ⟨_, -, -, hfs, hst, hld, htr, -⟩ := exec_form_frame hi hx
    rw [hfs, hst, hld, htr, hu]
    exact ⟨hlead, htrail, hnone, hlocked, haborted⟩

/-! ## PIDTAB -/

/-- What a packet form does to the records of PIDTAB: nothing, or the step of a routed packet on its own record (R183,
R185, R186 to R208). -/
theorem exec_form_pidRead {i : Instr} {s t : State} (hi : i.format = .tspH) (h : exec i s = .next t) :
    (∀ q, pidRead t q = pidRead s q) ∨
      ∃ hd afc p, ∀ q, pidRead t q = if q = hd.pid then recordAfter hd afc p s else pidRead s q := by
  obtain ⟨p, -, ⟨_, -, rfl⟩ | ⟨_, _, -, rfl⟩ | ⟨hd, afc, -, rfl⟩⟩ := exec_form_cases hi h
  · exact .inl fun _ => rfl
  · exact .inl fun _ => rfl
  · obtain ⟨t, ht, -, hrec, -⟩ := routedUnit_spec hd afc p s
    rw [ht]
    exact .inr ⟨hd, afc, p, hrec⟩

/-- What a step does to the records of PIDTAB: nothing, a reset of all of them, or what one routed packet does to its
own, in a state that agrees in PIDTAB. -/
theorem step_pidRead {s s' : State} (h : step s = .next s') :
    (∀ q, pidRead s' q = pidRead s q) ∨ (ResetIsNext s ∧ ∀ q, pidRead s' q = PidRec.reset) ∨
      ∃ hd afc p u, (∀ q, pidRead u q = pidRead s q) ∧
        ∀ q, pidRead s' q = if q = hd.pid then recordAfter hd afc p u else pidRead s q := by
  have he := step_frmEffect h
  generalize hf' : s'.frm = f' at he
  cases he with
  | same | start | request | lock | fail | finish | abort => exact .inl fun q => pidRead_congr (by rw [hf']) q
  | reset hr => exact .inr (.inl ⟨hr, fun q => by rw [pidRead, hf']; rfl⟩)
  | packet i u t hu _ hi hx =>
    have hs' : ∀ q, pidRead s' q = pidRead t q := pidRead_congr (by rw [hf'])
    have hus : ∀ q, pidRead u q = pidRead s q := pidRead_congr (by rw [hu])
    rcases exec_form_pidRead hi hx with hsame | ⟨hd, afc, p, hrec⟩
    · exact .inl fun q => (hs' q).trans ((hsame q).trans (hus q))
    · exact .inr (.inr ⟨hd, afc, p, u, hus, fun q => by rw [hs', hrec, hus]⟩)

/-- Settles O36: outside a reset, only a routed packet writes a record, which it makes valid and whose role it sets only
when it is unset. -/
theorem stepKeepsRecordsAndRoles : Obligations.StepKeepsRecordsAndRoles := by
  unfold Obligations.StepKeepsRecordsAndRoles
  intro s s' h hnr pid
  rcases step_pidRead h with hsame | ⟨hr, -⟩ | ⟨hd, afc, p, u, hu, hrec⟩
  · rw [hsame]
    exact ⟨id, fun _ => rfl⟩
  · exact absurd hr hnr
  · rw [hrec]
    split
    · next hpid =>
      refine ⟨fun _ => rfl, fun hrole => ?_⟩
      rw [← hu, hpid] at hrole ⊢
      exact if_neg fun hset => hrole hset.2
    · exact ⟨id, fun _ => rfl⟩

/-- A tolerated duplicate is one of a PID that holds a counter (R200). -/
theorem hasCc_of_isDup {hasPayload di : Bool} {x : PidRec} {cc : BitVec 4} {p last : List Byte}
    (h : isDup (continuity hasPayload di x cc p last) = true) : x.hasCc = true := by
  rcases continuity_cases hasPayload di x cc p last with ⟨-, hv⟩ | ⟨⟨-, -, hcc⟩, -⟩
  · rw [hv] at h
    cases h
  · exact hcc

theorem recordAfter_hasCc (hd : Hdr) (afc : BitVec 2) (p : List Byte) (s : State) :
    (recordAfter hd afc p s).hasCc = true := by
  unfold recordAfter
  dsimp only
  split
  · next hdup => exact hasCc_of_isDup hdup
  · rfl

/-- A counter grows by at most its flag, wrapping or not. -/
theorem toNat_add_flag_le (c : Word64) (b : Bool) : (c + (if b then 1 else 0)).toNat ≤ c.toNat + b.toNat := by
  cases b with
  | false => simp
  | true => exact Nat.mod_le _ _

/-- R48 (h), (k): a packet adds one to pkt_cnt and at most one to dup_cnt and cc_err_cnt together. -/
theorem recOk_recordAfter {hd : Hdr} {afc : BitVec 2} {p : List Byte} {s : State} (h : RecOk (pidRead s hd.pid))
    (hw : (pidRead s hd.pid).pktCnt.toNat + 1 < 2 ^ 64) : RecOk (recordAfter hd afc p s) := by
  obtain ⟨-, hle⟩ := h
  have hpkt : (recordAfter hd afc p s).pktCnt.toNat = (pidRead s hd.pid).pktCnt.toNat + 1 :=
    BitVec.toNat_add_of_lt hw
  have hdup := toNat_add_flag_le (pidRead s hd.pid).dupCnt (isDup (verdictBefore hd afc p s))
  have herr := toNat_add_flag_le (pidRead s hd.pid).ccErrCnt (isCcErr (verdictBefore hd afc p s))
  have hone : (isDup (verdictBefore hd afc p s)).toNat + (isCcErr (verdictBefore hd afc p s)).toNat ≤ 1 := by
    cases verdictBefore hd afc p s <;> decide
  refine ⟨fun _ => ?_, ?_⟩
  · omega
  · rw [hpkt]
    exact (Nat.add_le_add hdup herr).trans (by omega)

/-- Settles O40: a routed packet leaves a valid record with a counter; the others stay or are reset. -/
theorem stepKeepsPidRecordsConsistent : Obligations.StepKeepsPidRecordsConsistent := by
  unfold Obligations.StepKeepsPidRecordsConsistent PidsOk
  intro s s' h hok
  rcases step_pidRead h with hsame | ⟨-, hr⟩ | ⟨hd, afc, p, u, hu, hrec⟩
  · simp only [hsame]
    exact ⟨hok, fun hrec pid => (hrec pid).1⟩
  · simp [hr, RecOk, PidRec.reset]
  · constructor
    · intro pid
      by_cases hpid : pid = hd.pid
      · rw [hrec, if_pos hpid]
        exact ⟨fun hv => Bool.noConfusion hv, fun _ => recordAfter_hasCc hd afc p u⟩
      · simpa only [hrec, if_neg hpid] using hok pid
    · intro hcnt pid
      by_cases hpid : pid = hd.pid
      · rw [hrec, if_pos hpid]
        simp only [← hu] at hcnt
        exact recOk_recordAfter (hcnt hd.pid).1 (hcnt hd.pid).2
      · simpa only [hrec, if_neg hpid] using (hcnt pid).1

/-! ## The global counters -/

/-- PIDTAB decides every sum over it. -/
theorem pidSum_congr {s t : State} (h : t.frm.pidtab = s.frm.pidtab) (f : PidRec → Word64) :
    pidSum t f = pidSum s f := by
  simp only [pidSum, h]

/-- The framer decides whether its counters agree. -/
theorem countsOk_congr {s t : State} (h : t.frm = s.frm) : CountsOk t ↔ CountsOk s := by
  simp only [CountsOk, pidSum, h]

/-- A field of one record grows by `d`: so does its sum. -/
theorem pidSum_grow {s t : State} {pid : Pid} {x : PidRec} {f : PidRec → Word64} {d : Word64}
    (h : ∀ q, pidRead t q = if q = pid then x else pidRead s q) (hx : f x = f (pidRead s pid) + d) :
    pidSum t f = pidSum s f + d := by
  rw [pidSum_update f h, hx]
  ring

/-- R48 (i), (j) over one unit. -/
theorem unit_keeps_length_and_pos {s t : State} {r : Record} (ho : t.frm.out = s.frm.out ++ [r])
    (hk : t.frm.pktCount = s.frm.pktCount + 1) (hst : t.frm.stride = s.frm.stride)
    (hp : t.frm.pos = s.frm.pos + s.frm.stride.setWidth 64)
    (hlen : BitVec.ofNat 64 s.frm.out.length = s.frm.pktCount)
    (hpos : s.frm.pos = s.frm.pktCount * s.frm.stride.setWidth 64) :
    BitVec.ofNat 64 t.frm.out.length = t.frm.pktCount ∧ t.frm.pos = t.frm.pktCount * t.frm.stride.setWidth 64 := by
  rw [ho, hk, hst, hp, hpos, List.length_append, BitVec.ofNat_add, hlen]
  exact ⟨rfl, by ring⟩

/-- Every packet form keeps the counters equal to the sums (R48). -/
theorem exec_form_keeps_countsOk {i : Instr} {s t : State} (hi : i.format = .tspH) (hf : s.frm.fstate = .run)
    (hs : CountsOk s) (h : exec i s = .next t) : CountsOk t := by
  obtain ⟨hpkt, hcc, hdup, haf, hrole, hpid, hlen, hpos, -⟩ := hs
  obtain ⟨r, -, ho, hfs, hst, -, -, -, hk, hp, -⟩ := exec_form_frame hi h
  obtain ⟨hlen', hpos'⟩ := unit_keeps_length_and_pos ho hk hst hp hlen hpos
  have hout : t.frm.fstate = .idle ∨ t.frm.fstate = .probe ∨ t.frm.fstate = .fail → t.frm.out = [] := by
    simp [hfs, hf]
  obtain ⟨p, -, ⟨_, -, rfl⟩ | ⟨_, _, -, rfl⟩ | ⟨hd, afc, -, rfl⟩⟩ := exec_form_cases hi h
  · refine ⟨?_, hcc, hdup, haf, hrole, hpid, hlen', hpos', hout⟩
    change s.frm.pktCount + 1 = (s.frm.syncErrors + 1) + s.frm.teiCount + pidSum s PidRec.pktCnt
    rw [hpkt]
    ring
  · refine ⟨?_, hcc, hdup, haf, hrole, hpid, hlen', hpos', hout⟩
    change s.frm.pktCount + 1 = s.frm.syncErrors + (s.frm.teiCount + 1) + pidSum s PidRec.pktCnt
    rw [hpkt]
    ring
  · obtain ⟨u, hu, honly, hrec, -, hvalid, haf', hdup', hcc', hrole'⟩ := routedUnit_spec hd afc p s
    have hsync : u.frm.syncErrors = s.frm.syncErrors := by rw [honly]; rfl
    have htei : u.frm.teiCount = s.frm.teiCount := by rw [honly]; rfl
    have hsum : ∀ f, pidSum (routedUnit hd afc p s) f = pidSum u f := pidSum_congr (by rw [hu]; rfl)
    refine ⟨?_, ?_, ?_, ?_, ?_, ?_, hlen', hpos', hout⟩ <;> rw [hsum]
    · rw [pidSum_grow hrec (d := 1) rfl, hk, hpkt, hu, emit_frm_syncErrors, emit_frm_teiCount, hsync, htei]
      ring
    · rw [pidSum_grow hrec rfl, hu, emit_frm_ccErrors, hcc', hcc]
    · rw [pidSum_grow hrec rfl, hu, emit_frm_dupCount, hdup', hdup]
    · rw [pidSum_grow hrec rfl, hu, emit_frm_afErrors, haf', haf]
    · rw [pidSum_grow hrec rfl, hu, emit_frm_roleErrors, hrole', hrole]
    · rw [pidSum_grow hrec (d := if (pidRead s hd.pid).valid then 0 else 1), hu, emit_frm_pidCount, hvalid, hpid]
      cases (pidRead s hd.pid).valid <;> rfl

theorem pidSum_reset {s : State} (h : s.frm.pidtab = []) {f : PidRec → Word64} (hf : f PidRec.reset = 0) :
    pidSum s f = 0 := by
  unfold pidSum
  rw [h]
  exact List.sum_eq_zero fun x hx => by
    obtain ⟨i, -, rfl⟩ := List.mem_map.1 hx
    exact hf

theorem countsOk_reset {s : State} (h : s.frm = Framer.reset) : CountsOk s := by
  have hsum : ∀ {f : PidRec → Word64}, f PidRec.reset = 0 → pidSum s f = 0 := pidSum_reset (by rw [h]; rfl)
  unfold CountsOk
  rw [hsum rfl, hsum rfl, hsum rfl, hsum rfl, hsum rfl, hsum rfl, h]
  decide

/-- The counters do not depend on FSTATE, LEAD, TRAIL and ABORT_REQ, nor on STRIDE while no unit is counted. -/
theorem countsOk_of_control {s t : State} {fs : FState} {st : BitVec 8} {ld tr ab : Bool}
    (h : t.frm = { s.frm with fstate := fs, stride := st, lead := ld, trail := tr, abortReq := ab }) (hs : CountsOk s)
    (hst : st = s.frm.stride ∨ s.frm.out = [])
    (hout : fs = .idle ∨ fs = .probe ∨ fs = .fail → s.frm.out = []) : CountsOk t := by
  obtain ⟨hpkt, hcc, hdup, haf, hrole, hpid, hlen, hpos, -⟩ := hs
  have hsum : ∀ f, pidSum t f = pidSum s f := pidSum_congr (by rw [h])
  unfold CountsOk
  simp only [hsum, h]
  refine ⟨hpkt, hcc, hdup, haf, hrole, hpid, hlen, ?_, hout⟩
  rcases hst with rfl | hnil
  · exact hpos
  · have hzero : s.frm.pktCount = 0 := by rw [← hlen, hnil]; rfl
    rw [hpos, hzero, zero_mul, zero_mul]

/-- Settles O39: a unit adds the same to each counter and to its sum; no other step but a reset writes either; the lock
sets STRIDE while PKT_COUNT and POS are 0. -/
theorem stepKeepsCountersEqualToSums : Obligations.StepKeepsCountersEqualToSums := by
  unfold Obligations.StepKeepsCountersEqualToSums
  intro s s' hs h
  obtain ⟨-, -, -, -, -, -, -, -, hout⟩ := id hs
  have he := step_frmEffect h
  generalize hf' : s'.frm = f' at he
  cases he with
  | same => exact (countsOk_congr hf').2 hs
  | reset => exact countsOk_reset hf'
  | packet i u t hu hf hi hx =>
    rw [countsOk_congr hf']
    exact exec_form_keeps_countsOk hi (hu ▸ hf) ((countsOk_congr hu).2 hs) hx
  | request => exact countsOk_of_control hf' hs (.inl rfl) hout
  | start hf => exact countsOk_of_control hf' hs (.inl rfl) fun _ => hout (.inl hf)
  | lock row hrow hf => exact countsOk_of_control hf' hs (.inr (hout (.inr (.inl hf)))) (by simp)
  | fail hf => exact countsOk_of_control hf' hs (.inl rfl) fun _ => hout (.inr (.inl hf))
  | finish hf => exact countsOk_of_control hf' hs (.inl rfl) (by simp)
  | abort hf => exact countsOk_of_control hf' hs (.inl rfl) (by simp)

/-! ## The sparse stores -/

/-- The framer's part of `StoresOk`: PIDTAB and LASTPKT are canonical, list PIDs only, and hold whole packets. -/
def FrmStoresOk (f : Framer) : Prop :=
  SMap.wf PidRec.reset f.pidtab ∧ SMap.wf unwrittenCore f.lastpkt ∧
    (∀ e ∈ f.pidtab, e.1 < 8192) ∧ ∀ e ∈ f.lastpkt, e.1 < 8192 ∧ e.2.length = 188

theorem storesOk_iff (s : State) : StoresOk s ↔ FrmStoresOk s.frm ∧ Memory.wf s.bc.buf := by
  unfold StoresOk FrmStoresOk
  tauto

/-- PIDTAB and LASTPKT decide it. -/
theorem FrmStoresOk.congr {f g : Framer} (h : FrmStoresOk f) (hp : g.pidtab = f.pidtab) (hl : g.lastpkt = f.lastpkt) :
    FrmStoresOk g := by
  unfold FrmStoresOk
  rw [hp, hl]
  exact h

theorem pidUpdate_keeps_stores {s : State} (pid : Pid) (g : PidRec → PidRec) (h : FrmStoresOk s.frm) :
    FrmStoresOk (pidUpdate pid g s).frm := by
  obtain ⟨hp, hl, hpk, hlk⟩ := h
  refine ⟨SMap.wf_set _ _ _ _ hp, hl, fun e he => ?_, hlk⟩
  rcases SMap.mem_set _ _ _ _ e he with rfl | he
  · exact pid.isLt
  · exact hpk e he

theorem lastWrite_keeps_stores {s : State} (pid : Pid) {p : List Byte} (hlen : p.length = 188) (h : FrmStoresOk s.frm) :
    FrmStoresOk (lastWrite pid p s).frm := by
  obtain ⟨hp, hl, hpk, hlk⟩ := h
  refine ⟨hp, SMap.wf_set _ _ _ _ hl, hpk, fun e he => ?_⟩
  rcases SMap.mem_set _ _ _ _ e he with rfl | he
  · exact ⟨pid.isLt, hlen⟩
  · exact hlk e he

theorem raiseEvent_keeps_stores {s : State} (e : Event) (h : FrmStoresOk s.frm) : FrmStoresOk (raiseEvent e s).frm := by
  cases e with
  | framingError | syncLoss | transportError | crcMismatch => exact h
  | adaptationFieldError pid | continuityError pid | duplicatePacket pid | roleMismatch pid =>
    exact pidUpdate_keeps_stores pid _ h

theorem remember_keeps_stores {s : State} (pid : Pid) (cc : BitVec 4) {p : List Byte} (hlen : p.length = 188)
    (h : FrmStoresOk s.frm) : FrmStoresOk (remember pid cc p s).frm :=
  lastWrite_keeps_stores pid hlen (pidUpdate_keeps_stores pid _ h)

theorem touchPid_keeps_stores {s : State} (pid : Pid) (h : FrmStoresOk s.frm) : FrmStoresOk (touchPid pid s).frm :=
  pidUpdate_keeps_stores pid _ (h.congr rfl rfl)

theorem countAf_keeps_stores {s : State} (pid : Pid) (af : AfInfo) (h : FrmStoresOk s.frm) :
    FrmStoresOk (countAf pid af s).frm := by
  unfold countAf
  split
  · exact raiseEvent_keeps_stores _ h
  · exact h

theorem applyVerdict_keeps_stores {s : State} (v : Verdict) (hd : Hdr) {p : List Byte} (hlen : p.length = 188)
    (h : FrmStoresOk s.frm) : FrmStoresOk (applyVerdict v hd p s).frm := by
  cases v with
  | duplicate => exact raiseEvent_keeps_stores _ h
  | error => exact raiseEvent_keeps_stores _ (remember_keeps_stores hd.pid hd.cc hlen h)
  | inSequence | unchecked => exact remember_keeps_stores hd.pid hd.cc hlen h

theorem applyRole_keeps_stores {s : State} (e : Bool) (cls : Role) (pid : Pid) (h : FrmStoresOk s.frm) :
    FrmStoresOk (applyRole e cls pid s).frm := by
  unfold applyRole
  split_ifs
  · exact pidUpdate_keeps_stores pid _ h
  · exact raiseEvent_keeps_stores _ h
  · exact h
  · exact h

theorem routedUnit_keeps_stores {s : State} (hd : Hdr) (afc : BitVec 2) {p : List Byte} (hlen : p.length = 188)
    (h : FrmStoresOk s.frm) : FrmStoresOk (routedUnit hd afc p s).frm := by
  have hadv : FrmStoresOk (advance s).frm := h.congr rfl rfl
  have haf := countAf_keeps_stores hd.pid (parseAf afc p) (touchPid_keeps_stores hd.pid hadv)
  exact (applyRole_keeps_stores _ _ hd.pid (applyVerdict_keeps_stores _ hd hlen haf)).congr rfl rfl

theorem exec_form_keeps_stores {i : Instr} {s t : State} (hi : i.format = .tspH) (hs : FrmStoresOk s.frm)
    (h : exec i s = .next t) : FrmStoresOk t.frm := by
  obtain ⟨p, ⟨-, -, hlen, -⟩, ⟨_, -, rfl⟩ | ⟨_, _, -, rfl⟩ | ⟨hd, afc, -, rfl⟩⟩ := exec_form_cases hi h
  · exact hs.congr rfl rfl
  · exact hs.congr rfl rfl
  · exact routedUnit_keeps_stores hd afc hlen hs

theorem wf_nil {α : Type} (d : α) : SMap.wf d [] := ⟨.nil, by simp⟩

theorem FrmEffect.keeps_stores {r : Prop} {f f' : Framer} (he : FrmEffect r f f') (h : FrmStoresOk f) :
    FrmStoresOk f' := by
  cases he with
  | same | start | request | lock | fail | finish | abort => exact h.congr rfl rfl
  | reset => exact ⟨wf_nil _, wf_nil _, by simp [Framer.reset], by simp [Framer.reset]⟩
  | packet i s t hs hf hi hx => exact exec_form_keeps_stores hi (hs ▸ h) hx

theorem BcEffect.keeps_buf {cap : Nat} {b c : BitCursor} (he : BcEffect cap b c) (h : Memory.wf b.buf) :
    Memory.wf c.buf := by
  cases he with
  | status | read | clear | align => exact h
  | push v => exact Memory.wf_write _ _ _ h

/-- Settles O41: every store is written through `SMap.set`, at a PID or at BUF_LEN, and LASTPKT with whole packets. -/
theorem stepKeepsStoresCanonical : Obligations.StepKeepsStoresCanonical := by
  unfold Obligations.StepKeepsStoresCanonical
  intro s s' hs h
  obtain ⟨hfrm, hbuf⟩ := (storesOk_iff s).1 hs
  refine (storesOk_iff s').2 ⟨(step_frmEffect h).keeps_stores hfrm, ?_⟩
  obtain ⟨-, hb | hb⟩ := step_bcEffect h
  · exact hb.keeps_buf hbuf
  · rw [hb]
    exact wf_nil _

/-! ## Stores of LASTPKT that are never read -/

/-- The state with other stores of LASTPKT. -/
def withLast (m : SMap (List Byte)) (s : State) : State := { s with frm.lastpkt := m }

/-- The stores `m` agree with those of `s` at every PID that holds a counter (R31). -/
def LastAgrees (m : SMap (List Byte)) (s : State) : Prop :=
  ∀ pid, (pidRead s pid).hasCc = true → lastRead (withLast m s) pid = lastRead s pid

theorem sameButUnreadLast_iff (s t : State) :
    SameButUnreadLast s t ↔ ∃ m, t = withLast m s ∧ LastAgrees m s := by
  constructor
  · rintro ⟨ht, hl⟩
    refine ⟨t.frm.lastpkt, ht, fun pid hcc => ?_⟩
    rw [← hl pid hcc]
    rfl
  · rintro ⟨m, rfl, hl⟩
    exact ⟨rfl, hl⟩

/-- With other stores that agree, `F` answers the same next state, with stores that agree again. -/
def HidesUnreadLast (F : State → Out) : Prop :=
  ∀ m s s', LastAgrees m s → F s = .next s' → ∃ m', F (withLast m s) = .next (withLast m' s') ∧ LastAgrees m' s'

@[simp] theorem pidRead_withLast (m : SMap (List Byte)) (s : State) (pid : Pid) :
    pidRead (withLast m s) pid = pidRead s pid := rfl

theorem LastAgrees.congr {m : SMap (List Byte)} {s t : State} (h : LastAgrees m s) (hp : t.frm.pidtab = s.frm.pidtab)
    (hl : t.frm.lastpkt = s.frm.lastpkt) : LastAgrees m t := by
  intro pid hcc
  rw [pidRead_congr hp] at hcc
  rw [lastRead_congr hl, ← h pid hcc]
  rfl

/-- What leaves PIDTAB and LASTPKT alone and does not look at LASTPKT hides its stores. -/
theorem hidesUnreadLast_of_commutes {F : State → Out}
    (hF : ∀ m s s', F s = .next s' →
      F (withLast m s) = .next (withLast m s') ∧ s'.frm.pidtab = s.frm.pidtab ∧ s'.frm.lastpkt = s.frm.lastpkt) :
    HidesUnreadLast F := fun m s s' hm h => by
  obtain ⟨hw, hp, hl⟩ := hF m s s' h
  exact ⟨m, hw, hm.congr hp hl⟩

/-- The same for an operation that always answers. -/
theorem hidesUnreadLast_next {g : State → State} (hg : ∀ m s, g (withLast m s) = withLast m (g s))
    (hp : ∀ s, (g s).frm.pidtab = s.frm.pidtab) (hl : ∀ s, (g s).frm.lastpkt = s.frm.lastpkt) :
    HidesUnreadLast fun s => .next (g s) :=
  hidesUnreadLast_of_commutes fun m s s' h => by
    cases Host.Outcome.next.inj h
    exact ⟨congrArg _ (hg m s), hp s, hl s⟩

/-! ### Commands -/

/-- A command of the CRC unit or of the bit cursor looks at neither the framer nor the ports (R93). -/
theorem exec_unit_cmd_frm_ports {i : Instr} {s t : State} (hi : isCrcCmd i = true ∨ isBcCmd i = true)
    (h : exec i s = .next t) (f : Framer) (p : Ports) :
    exec i { s with frm := f, ports := p } = .next { t with frm := f, ports := p } := by
  have hcw : readCodeword { s with frm := f, ports := p } = readCodeword s := readCodeword_congr rfl
  cases i with
  | crcInit | crcByte | bcClear | bcAlign | bcRem => cases Host.Outcome.next.inj h; rfl
  | crcCheck =>
    cases Host.Outcome.next.inj h
    by_cases hz : s.crc.reg = 0 <;> simp only [exec, execCrcCheck, hz, ↓reduceIte] <;> rfl
  | bcPush b =>
    simp only [exec, execBcPush] at h ⊢
    split_ifs at h ⊢ <;> cases Host.Outcome.next.inj h <;> rfl
  | bcRdu n =>
    by_cases hw : n.toNat < 1 ∨ 32 < n.toNat
    · cases Host.Outcome.next.inj (h.symm.trans (if_pos hw))
      exact if_pos hw
    · by_cases hb : nbits s < s.bc.bitPos + n.toNat
      · cases Host.Outcome.next.inj (h.symm.trans ((if_neg hw).trans (if_pos hb)))
        exact (if_neg hw).trans (if_pos hb)
      · have hv : bitsVal { s with frm := f, ports := p } s.bc.bitPos n.toNat = bitsVal s s.bc.bitPos n.toNat :=
          bitsVal_congr fun _ _ => rfl
        cases Host.Outcome.next.inj (h.symm.trans ((if_neg hw).trans (if_neg hb)))
        rw [← hv]
        exact (if_neg hw).trans (if_neg hb)
  | bcRdue =>
    simp only [exec, execBcRdue] at h ⊢
    rw [hcw]
    split at h <;> cases Host.Outcome.next.inj h <;> rfl
  | bcRdse =>
    simp only [exec, execBcRdse] at h ⊢
    rw [hcw]
    split at h <;> cases Host.Outcome.next.inj h <;> rfl
  | sysReset | frmStart | frmAbort => simp [isCrcCmd, isBcCmd] at hi
  | tspTei | tspRsv | tspPay | tspAf | tspAfpay | tspNosync => simp [isCrcCmd, isBcCmd] at hi

/-- A command of the CRC unit or of the bit cursor leaves the framer and the ports alone (R93). -/
theorem exec_unit_cmd_frame {i : Instr} {s t : State} (hi : isCrcCmd i = true ∨ isBcCmd i = true)
    (h : exec i s = .next t) : t.frm = s.frm ∧ t.ports = s.ports := by
  rcases hi with hc | hb
  · obtain ⟨_, _, _, h'⟩ := exec_crc_cases i s hc
    cases Host.Outcome.next.inj (h.symm.trans h')
    exact ⟨rfl, rfl⟩
  · obtain ⟨_, _, _, _, -, -, rfl⟩ := exec_bc_effect hb h
    exact ⟨rfl, rfl⟩

theorem exec_unit_cmd_hidesUnreadLast {i : Instr} (hi : isCrcCmd i = true ∨ isBcCmd i = true) :
    HidesUnreadLast (exec i) :=
  hidesUnreadLast_of_commutes fun m s s' h => by
    obtain ⟨hfrm, hports⟩ := exec_unit_cmd_frame hi h
    refine ⟨?_, by rw [hfrm], by rw [hfrm]⟩
    have hx := exec_unit_cmd_frm_ports hi h (withLast m s').frm s'.ports
    rwa [show ({ s with frm := (withLast m s').frm, ports := s'.ports } : State) = withLast m s by
      simp only [withLast, hfrm, hports]] at hx

/-- Every command hides the stores. -/
theorem exec_cw32_hidesUnreadLast {i : Instr} (hi : i.format = .cw32) : HidesUnreadLast (exec i) := by
  rcases cw32_cases i hi with rfl | rfl | rfl | hc | hb
  · intro m s s' _ h
    cases exec_sysReset_inv h
    exact ⟨[], rfl, fun pid _ => rfl⟩
  · refine hidesUnreadLast_of_commutes fun m s s' h => ?_
    rcases exec_frmStart s with ⟨hf, h'⟩ | ⟨hf, h'⟩ <;> cases Host.Outcome.next.inj (h.symm.trans h')
    · exact ⟨if_pos hf, rfl, rfl⟩
    · exact ⟨if_neg hf, rfl, rfl⟩
  · refine hidesUnreadLast_of_commutes fun m s s' h => ?_
    rcases exec_frmAbort s with ⟨hf, h'⟩ | ⟨hf, h'⟩ <;> cases Host.Outcome.next.inj (h.symm.trans h')
    · exact ⟨if_pos hf, rfl, rfl⟩
    · exact ⟨if_neg hf, rfl, rfl⟩
  · exact exec_unit_cmd_hidesUnreadLast (.inl hc)
  · exact exec_unit_cmd_hidesUnreadLast (.inr hb)

/-! ### Packet forms -/

/-- The verdict of `routedUnit` is the one from the state before it. -/
theorem verdictOf_touched (hd : Hdr) (afc : BitVec 2) (p : List Byte) (s : State) :
    verdictOf hd afc (parseAf afc p) p (countAf hd.pid (parseAf afc p) (touchPid hd.pid (advance s))) =
      verdictBefore hd afc p s := by
  obtain ⟨hcount, -⟩ := countAf_spec hd.pid (parseAf afc p) (touchPid hd.pid (advance s))
  obtain ⟨htouch, -⟩ := touchPid_spec hd.pid (advance s)
  unfold verdictOf verdictBefore
  rw [lastRead_countAf, lastRead_touchPid, lastRead_advance]
  refine continuity_congr ?_ ?_ ?_ <;> simp [hcount, htouch]

/-- R31: the verdict looks at the store only of a PID that holds a counter. -/
theorem verdictBefore_withLast {m : SMap (List Byte)} {s : State} (hm : LastAgrees m s) (hd : Hdr) (afc : BitVec 2)
    (p : List Byte) : verdictBefore hd afc p (withLast m s) = verdictBefore hd afc p s := by
  unfold verdictBefore continuity
  rw [pidRead_withLast]
  by_cases hcc : (pidRead s hd.pid).hasCc = true
  · rw [hm hd.pid hcc]
  · simp [hcc]

theorem countAf_withLast (m : SMap (List Byte)) (pid : Pid) (af : AfInfo) (s : State) :
    countAf pid af (withLast m s) = withLast m (countAf pid af s) := by
  unfold countAf
  rw [apply_ite (withLast m)]
  rfl

/-- R203: every packet but a tolerated duplicate is stored. -/
theorem applyVerdict_withLast (m : SMap (List Byte)) (v : Verdict) (hd : Hdr) (p : List Byte) (s : State) :
    ∃ m', applyVerdict v hd p (withLast m s) = withLast m' (applyVerdict v hd p s) := by
  cases v with
  | duplicate => exact ⟨m, rfl⟩
  | error | inSequence | unchecked => exact ⟨SMap.set unwrittenCore m hd.pid.toNat p, rfl⟩

theorem applyRole_withLast (m : SMap (List Byte)) (e : Bool) (cls : Role) (pid : Pid) (s : State) :
    applyRole e cls pid (withLast m s) = withLast m (applyRole e cls pid s) := by
  unfold applyRole
  rw [pidRead_withLast]
  split_ifs <;> rfl

theorem routedUnit_withLast {m : SMap (List Byte)} {s : State} (hm : LastAgrees m s) (hd : Hdr) (afc : BitVec 2)
    (p : List Byte) : ∃ m', routedUnit hd afc p (withLast m s) = withLast m' (routedUnit hd afc p s) := by
  obtain ⟨m', hm'⟩ := applyVerdict_withLast m (verdictBefore hd afc p s) hd p
    (countAf hd.pid (parseAf afc p) (touchPid hd.pid (advance s)))
  refine ⟨m', ?_⟩
  have htouch : touchPid hd.pid (advance (withLast m s)) = withLast m (touchPid hd.pid (advance s)) := rfl
  simp only [routedUnit, verdictOf_touched, verdictBefore_withLast hm]
  simp only [htouch, countAf_withLast, hm', applyRole_withLast, pidRead_withLast]
  rfl

/-- After a routed packet the stores agree at its PID too: both hold the packet, or a duplicate has left both. -/
theorem routedUnit_lastAgrees {m m' : SMap (List Byte)} {s : State} (hm : LastAgrees m s) (hd : Hdr) (afc : BitVec 2)
    (p : List Byte) (h : routedUnit hd afc p (withLast m s) = withLast m' (routedUnit hd afc p s)) :
    LastAgrees m' (routedUnit hd afc p s) := by
  obtain ⟨t, ht, -, hrec, hlast, -⟩ := routedUnit_spec hd afc p s
  obtain ⟨t', ht', -, -, hlast', -⟩ := routedUnit_spec hd afc p (withLast m s)
  intro q hcc
  rw [← h, ht', ht, lastRead_emit, lastRead_emit, hlast', hlast, verdictBefore_withLast hm]
  split
  · rfl
  · next hq =>
    refine hm q ?_
    rw [ht, pidRead_emit, hrec] at hcc
    by_cases hpid : q = hd.pid
    · subst hpid
      have hdup : isDup (verdictBefore hd afc p s) = true := by simpa using hq
      exact hasCc_of_isDup hdup
    · rwa [if_neg hpid] at hcc

/-- Every packet form hides the stores. -/
theorem exec_form_hidesUnreadLast {i : Instr} (hi : i.format = .tspH) : HidesUnreadLast (exec i) := by
  intro m s s' hm h
  obtain ⟨p, hp, ⟨w, rfl, rfl⟩ | ⟨hd, afc, rfl, rfl⟩ | ⟨hd, afc, rfl, rfl⟩⟩ := exec_form_cases hi h
  · exact ⟨m, exec_tspNosync w (s := withLast m s) hp, hm.congr rfl rfl⟩
  · exact ⟨m, exec_tspTei hd afc (s := withLast m s) hp, hm.congr rfl rfl⟩
  · obtain ⟨m', hm'⟩ := routedUnit_withLast hm hd afc p
    exact ⟨m', (exec_routedForm hd afc (s := withLast m s) hp).trans (congrArg _ hm'),
      routedUnit_lastAgrees hm hd afc p hm'⟩

/-! ### Moves -/

theorem writeCfg_withLast (v : Word64) (m : SMap (List Byte)) (s : State) :
    writeCfg v (withLast m s) = withLast m (writeCfg v s) := by
  unfold writeCfg
  rw [apply_ite (withLast m)]
  rfl

theorem writeBcStatus_withLast (v : Word64) (m : SMap (List Byte)) (s : State) :
    writeBcStatus v (withLast m s) = withLast m (writeBcStatus v s) := by
  unfold writeBcStatus
  rw [apply_ite (withLast m)]
  rfl

theorem sourceStep_withLast (n : Nat) (m : SMap (List Byte)) (s : State) :
    sourceStep n (withLast m s) = withLast m (sourceStep n s) := by
  unfold sourceStep
  rw [apply_ite (withLast m)]
  rfl

theorem probeStep_withLast (m : SMap (List Byte)) (s : State) :
    probeStep (withLast m s) = withLast m (probeStep s) := by
  have hc : probeChoice (withLast m s) = probeChoice s := rfl
  unfold probeStep
  rw [hc]
  cases probeChoice s <;> rfl

theorem probeStep_stores (s : State) :
    (probeStep s).frm.pidtab = s.frm.pidtab ∧ (probeStep s).frm.lastpkt = s.frm.lastpkt := by
  rcases probeStep_cases s with ⟨row, _, _, he⟩ | ⟨_, he⟩ <;> rw [he] <;> exact ⟨rfl, rfl⟩

theorem stay_hidesUnreadLast : HidesUnreadLast fun s => .next s :=
  hidesUnreadLast_next (g := id) (fun _ _ => rfl) (fun _ => rfl) fun _ => rfl

theorem sourceStep_hidesUnreadLast (n : Nat) : HidesUnreadLast fun s => .next (sourceStep n s) :=
  hidesUnreadLast_next (sourceStep_withLast n) (by simp) (by simp)

theorem sinkStep_hidesUnreadLast (n : Nat) : HidesUnreadLast fun s => .next (sinkStep n s) :=
  hidesUnreadLast_next (fun _ _ => rfl) (fun _ => rfl) fun _ => rfl

theorem writeSlot_hidesUnreadLast (sl : Slot) (v : Word64) : HidesUnreadLast fun s => .next (writeSlot sl v s) := by
  by_cases hro : sl ≠ .cfg ∧ sl ≠ .bcStatus ∧ sl ≠ .pidSel
  · obtain ⟨h1, h2, h3⟩ := hro
    simp only [writeSlot_readOnly v _ h1 h2 h3]
    exact stay_hidesUnreadLast
  · obtain rfl | rfl | rfl : sl = .cfg ∨ sl = .bcStatus ∨ sl = .pidSel := by tauto
    · exact hidesUnreadLast_next (g := writeCfg v) (writeCfg_withLast v) (by simp) (by simp)
    · exact hidesUnreadLast_next (g := writeBcStatus v) (writeBcStatus_withLast v) (by simp) (by simp)
    · exact hidesUnreadLast_next (g := writePidSel v) (fun _ _ => rfl) (fun _ => rfl) fun _ => rfl

theorem runCommand_hidesUnreadLast (w : Word32) : HidesUnreadLast (runCommand w) := by
  unfold runCommand
  cases hd : decodeCmd w with
  | ok i => exact exec_cw32_hidesUnreadLast (decodeCmd_format hd)
  | error e => exact hidesUnreadLast_next (fun _ _ => rfl) (fun _ => rfl) fun _ => rfl

theorem hostWrite_hidesUnreadLast (a : BitVec 12) (v : Word64) : HidesUnreadLast (hostWrite a v) := by
  cases hs : slotAt a with
  | none =>
    rw [show hostWrite a v = fun s => .next s from funext (hostWrite_of_no_slot hs v)]
    exact stay_hidesUnreadLast
  | some sl =>
    by_cases hc : sl = .cmd
    · subst hc
      have ha := (slotAt_eq_some_iff a .cmd).1 hs
      rw [show hostWrite a v = runCommand (v.extractLsb' 0 32) from funext fun s => hostWrite_cmd s v ha]
      exact runCommand_hidesUnreadLast _
    · rw [show hostWrite a v = fun s => .next (writeSlot sl v s) from funext (hostWrite_of_slotAt hs hc v)]
      exact writeSlot_hidesUnreadLast sl v

/-- No register shows LASTPKT. -/
theorem regRead_withLast (m : SMap (List Byte)) (s : State) (a : BitVec 12) :
    regRead (withLast m s) a = regRead s a := by
  unfold regRead
  cases slotAt a with
  | none => rfl
  | some sl => cases sl <;> rfl

theorem hostAccess_hidesUnreadLast (a : Access) : HidesUnreadLast (hostAccess a) := by
  cases a with
  | read r =>
    exact hidesUnreadLast_next (g := fun s => { s with ports.rdata := regRead s r })
      (fun m s => by rw [regRead_withLast]; rfl) (fun _ => rfl) fun _ => rfl
  | write r v => exact hostWrite_hidesUnreadLast r v
  | reset =>
    intro m s s' _ h
    cases Host.Outcome.next.inj h
    exact ⟨[], rfl, fun pid _ => rfl⟩

theorem framerStep_hidesUnreadLast : HidesUnreadLast framerStep := by
  intro m s s' hm h
  have he : enabledStep (withLast m s) = enabledStep s := rfl
  have hn : nextHeader (withLast m s) = nextHeader s := rfl
  unfold framerStep at h ⊢
  rw [he, hn]
  cases hk : enabledStep s <;> rw [hk] at h
  case idle | waiting => exact stay_hidesUnreadLast m s s' hm h
  case probe =>
    exact hidesUnreadLast_next probeStep_withLast (fun s => (probeStep_stores s).1) (fun s => (probeStep_stores s).2)
      m s s' hm h
  case packet => exact exec_form_hidesUnreadLast (decodeHeader_format _) m s s' hm h
  case finish => exact hidesUnreadLast_next (g := endStep) (fun _ _ => rfl) (fun _ => rfl) (fun _ => rfl) m s s' hm h
  case abort => exact hidesUnreadLast_next (g := abortStep) (fun _ _ => rfl) (fun _ => rfl) (fun _ => rfl) m s s' hm h

theorem takeTurn_hidesUnreadLast (t : Turn) : HidesUnreadLast (takeTurn t) := by
  cases t with
  | host a => exact hostAccess_hidesUnreadLast a
  | framer => exact framerStep_hidesUnreadLast
  | source n => exact sourceStep_hidesUnreadLast n
  | sink n => exact sinkStep_hidesUnreadLast n
  | present bytes ends =>
    exact hidesUnreadLast_next (g := presentStep bytes ends) (fun _ _ => rfl) (fun _ => rfl) fun _ => rfl

theorem freeRun_hidesUnreadLast : HidesUnreadLast freeRun := by
  intro m s s' hm h
  have he : enabledStep (withLast m s) = enabledStep s := rfl
  by_cases hp : s.ports.recPort ≠ []
  · rw [freeRun, if_pos hp] at h
    rw [freeRun, if_pos (show (withLast m s).ports.recPort ≠ [] from hp)]
    exact sinkStep_hidesUnreadLast _ m s s' hm h
  · rw [freeRun, if_neg hp] at h
    rw [freeRun, if_neg (show ¬ (withLast m s).ports.recPort ≠ [] from hp), he]
    cases hk : enabledStep s <;> rw [hk] at h
    case idle | waiting => exact sourceStep_hidesUnreadLast _ m s s' hm h
    all_goals exact framerStep_hidesUnreadLast m s s' hm h

theorem step_hidesUnreadLast : HidesUnreadLast step := by
  intro m s s' hm h
  have ht : (withLast m s).ports.turns = s.ports.turns := rfl
  unfold step at h ⊢
  rw [ht]
  cases hts : s.ports.turns <;> rw [hts] at h
  case nil => exact freeRun_hidesUnreadLast m s s' hm h
  case cons t ts => exact takeTurn_hidesUnreadLast t m (dropTurn s) s' (hm.congr rfl rfl) h

/-- Settles O59: only the continuity verdict reads LASTPKT, of a PID that holds a counter, and a packet that gives a PID
its counter stores itself. -/
theorem unwrittenLastPacketsAreUnobservable : Obligations.UnwrittenLastPacketsAreUnobservable := by
  unfold Obligations.UnwrittenLastPacketsAreUnobservable
  intro s t s' hst h
  obtain ⟨m, rfl, hm⟩ := (sameButUnreadLast_iff s t).1 hst
  obtain ⟨m', hstep, hm'⟩ := step_hidesUnreadLast m s s' hm h
  exact ⟨_, hstep, (sameButUnreadLast_iff s' _).2 ⟨m', rfl, hm'⟩⟩

/-! ## Reset -/

theorem pidRead_of_nil {s : State} (h : s.frm.pidtab = []) (pid : Pid) : pidRead s pid = PidRec.reset := by
  rw [pidRead, h]
  rfl

/-- R49, unit by unit. -/
theorem atReset_of_units {t : State} (hfrm : t.frm = Framer.reset) (hcrc : t.crc = CrcUnit.reset)
    (hbc : t.bc = BitCursor.reset) (hcfg : t.cfg = Cfg.reset) (hsel : t.pidSel = 0) (hwin : t.pidWin = PidRec.reset) :
    AtReset t := by
  have hpid := pidRead_of_nil (s := t) (by rw [hfrm]; rfl)
  unfold AtReset
  rw [hfrm, hcrc, hbc, hcfg, hsel, hwin]
  exact ⟨rfl, rfl, rfl, rfl, rfl, rfl, rfl, rfl, rfl, rfl, rfl, rfl, rfl, rfl, rfl, hpid, rfl, rfl, rfl, rfl, rfl, rfl,
    rfl, rfl, rfl, rfl⟩

/-- Settles O1: a reset puts every unit at its reset value; SYS.RESET adds its answer. -/
theorem hardwareResetGivesResetValues : Obligations.HardwareResetGivesResetValues := by
  unfold Obligations.HardwareResetGivesResetValues
  have hresp : ∀ {t : State}, t.resp = Resp.reset → regRead t 0x008 = 0 := fun {t} ht => by
    rw [show regRead t 0x008 = respWord t.resp from regRead_slotAddr t .resp, ht]
    rfl
  refine ⟨atReset_of_units rfl rfl rfl rfl rfl rfl, hresp rfl, fun s => ?_⟩
  exact ⟨hardReset s, respondOk opcSysReset 0 (hardReset s), rfl, atReset_of_units rfl rfl rfl rfl rfl rfl, hresp rfl,
    rfl, rfl, atReset_of_units rfl rfl rfl rfl rfl rfl, rfl⟩

/-- Settles O31: the turn is taken off the list and its write to CMD runs the command. -/
theorem stepRunsTheWrittenCommand : Obligations.StepRunsTheWrittenCommand := by
  unfold Obligations.StepRunsTheWrittenCommand
  intro s a v ts i ht ha hd
  have hdrop : dropTurn s = { s with ports.turns := ts } := by rw [dropTurn, ht, List.tail_cons]
  have hstep : step s = hostWrite a v (dropTurn s) := by
    unfold step
    rw [ht]
    rfl
  rw [hstep, hostWrite_cmd _ _ ha, runCommand, hd, hdrop]

theorem strideOk_reset : StrideOk State.reset := by
  unfold StrideOk
  decide

theorem storesOk_reset : StoresOk State.reset :=
  ⟨wf_nil _, wf_nil _, wf_nil _, fun _ h => absurd h List.not_mem_nil, fun _ h => absurd h List.not_mem_nil⟩

theorem gridOk_reset : GridOk State.reset := by
  unfold GridOk
  decide

/-- Settles O45: each invariant at the reset state, where every store and every list is empty. -/
theorem resetMeetsEveryInvariant : Obligations.ResetMeetsEveryInvariant := by
  unfold Obligations.ResetMeetsEveryInvariant
  have hpid : ∀ pid, pidRead State.reset pid = PidRec.reset := pidRead_of_nil rfl
  have hcursor : CursorOk State.reset := ⟨Nat.zero_le _, Nat.zero_le _⟩
  have hresp : RespOk State.reset := by unfold RespOk; decide
  have hcfg : CfgOk State.reset := by unfold CfgOk; decide
  have hpids : PidsOk State.reset := fun pid => ⟨fun _ => hpid pid, fun h => by rw [hpid] at h; cases h⟩
  have hrec : ∀ pid, RecOk (pidRead State.reset pid) := fun pid => by rw [hpid]; unfold RecOk; decide
  exact ⟨strideOk_reset, hcursor, hresp, hcfg, storesOk_reset, hpids, countsOk_reset rfl, hrec, rfl, gridOk_reset,
    by decide⟩

end Sys2Proof.Machine

/-! PROOFS. The record output, the two other parties, and the independence of the units: which parts of the state each
move decides. -/

namespace Sys2Proof.Machine

open Sys2Proof

/-! ## The record output -/

@[simp] theorem writeCfg_ports (v : Word64) (s : State) : (writeCfg v s).ports = s.ports := by
  unfold writeCfg; split <;> rfl
@[simp] theorem writeBcStatus_ports (v : Word64) (s : State) : (writeBcStatus v s).ports = s.ports := by
  unfold writeBcStatus; split <;> rfl
@[simp] theorem sourceStep_ports_recPort (n : Nat) (s : State) :
    (sourceStep n s).ports.recPort = s.ports.recPort := by
  unfold sourceStep; split <;> rfl
@[simp] theorem sourceStep_ports_sinkGot (n : Nat) (s : State) :
    (sourceStep n s).ports.sinkGot = s.ports.sinkGot := by
  unfold sourceStep; split <;> rfl

/-- R76: the header signals first, then the payload beats if there are any. -/
theorem beatsOf_recordBeats (r : Record) : BeatsOf r (recordBeats r) := by
  refine ⟨r.header, _, rfl, signalsOf_header r, fun ⟨hv, hl⟩ => ?_, fun h => if_neg (by simpa using h)⟩
  rw [if_pos (by simpa [hv] using hl)]
  exact ⟨length_dataBeats r.payload, fun _ _ => getElem?_dataBeats⟩

/-- R76, R181: a packet form leaves the beats of the record it appends at the record output. -/
theorem exec_form_offers_record {i : Instr} {s t : State} (hi : i.format = .tspH) (h : exec i s = .next t) :
    ∃ r, t.frm.out = s.frm.out ++ [r] ∧ t.ports.recPort = recordBeats r ∧ t.ports.sinkGot = s.ports.sinkGot := by
  obtain ⟨r, ht, hout, -⟩ := exec_form_frame hi h
  exact ⟨r, hout, by rw [ht], by rw [ht]⟩

/-- OUT and the two histories decide it. -/
theorem PortOk.congr {s t : State} (h : PortOk s) (ho : t.frm.out = s.frm.out)
    (hg : t.ports.sinkGot = s.ports.sinkGot) (hr : t.ports.recPort = s.ports.recPort) : PortOk t := by
  unfold PortOk
  rw [ho, hg, hr]
  exact h

/-- A command keeps the record output, or empties it with OUT. -/
theorem exec_cw32_keeps_portOk {i : Instr} {s t : State} (hi : i.format = .cw32) (hs : PortOk s)
    (h : exec i s = .next t) : PortOk t := by
  obtain ⟨_, _, _, u, hu, -, rfl⟩ := exec_cw32_effect hi h
  cases hu with
  | none | start | request | crc | bc => exact hs.congr rfl rfl rfl
  | reset => rfl

/-- R76: a record follows the earlier ones, which the sink has whole when the port is empty. -/
theorem exec_form_keeps_portOk {i : Instr} {s t : State} (hi : i.format = .tspH) (hp : s.ports.recPort = [])
    (hs : PortOk s) (h : exec i s = .next t) : PortOk t := by
  obtain ⟨r, hout, hrec, hgot⟩ := exec_form_offers_record hi h
  have hall : s.ports.sinkGot = s.frm.out.flatMap recordBeats := by rw [← hs, hp, List.append_nil]
  unfold PortOk
  rw [hout, hrec, hgot, hall]
  simp

/-- R76, R327: what the sink takes moves from the front of the port to the end of what it has. -/
theorem sinkStep_keeps_portOk {s : State} (n : Nat) (hs : PortOk s) : PortOk (sinkStep n s) := by
  unfold PortOk
  rw [sinkStep_ports_sinkGot, sinkStep_ports_recPort, List.append_assoc, List.take_append_drop]
  exact hs

/-- One move keeps the record output in order. -/
theorem Move.keeps_portOk {o : Option Turn} {s s' : State} (h : Move o s s') (hs : PortOk s) : PortOk s' := by
  cases h with
  | stay | read | illegal | writePidSel | finish | abort | present => exact hs.congr rfl rfl rfl
  | writeCfg v => exact hs.congr (by simp) (by simp) (by simp)
  | writeBcStatus v => exact hs.congr (by simp) (by simp) (by simp)
  | source n => exact hs.congr (by simp) (by simp) (by simp)
  | probe => rcases probeStep_cases s with ⟨_, _, _, he⟩ | ⟨_, he⟩ <;> rw [he] <;> exact hs.congr rfl rfl rfl
  | reset => rfl
  | command i t hi _ h => exact exec_cw32_keeps_portOk hi hs h
  | packet i t _ hp hi h => exact exec_form_keeps_portOk hi hp hs h
  | sink n => exact sinkStep_keeps_portOk n hs

/-- Settles O43: a packet form appends a record where none waits, the sink takes from the front, a reset empties
all three histories, and no other move touches them. -/
theorem stepKeepsRecordOutputInOrder : Obligations.StepKeepsRecordOutputInOrder := by
  unfold Obligations.StepKeepsRecordOutputInOrder
  refine ⟨beatsOf_recordBeats, fun i s t hi _ h => ?_, fun s s' hs h => ?_⟩
  · obtain ⟨r, hout, hrec, -⟩ := exec_form_offers_record hi h
    exact ⟨r, hout, hrec⟩
  · exact (step_move h).keeps_portOk (hs.congr rfl rfl rfl)

/-! ## The source, the sink and FRM.START -/

/-- A prescribed turn is taken off the list and made. -/
theorem step_of_turn {s : State} {t : Turn} {ts : List Turn} (h : s.ports.turns = t :: ts) :
    step s = takeTurn t { s with ports.turns := ts } := by
  have hdrop : dropTurn s = { s with ports.turns := ts } := by rw [dropTurn, h, List.tail_cons]
  rw [← hdrop]
  unfold step
  rw [h]

/-- A source that may not transfer moves nothing (R322, R326). -/
theorem sourceStep_of_not_ready {s : State} (n : Nat) (h : inReady s = false) : sourceStep n s = s := by
  rcases sourceStep_cases n s with ⟨-, he⟩ | ⟨hr, -⟩
  · exact he
  · rw [h] at hr
    cases hr

/-- A move of a source that may transfer (R70, R72, R326): the next bytes in order, and the end mark with the last. -/
theorem sourceStep_of_ready {s : State} (n : Nat) (h : inReady s = true) :
    (sourceStep n s = { s with
        ports.stream := s.ports.stream ++ s.ports.input.take n, ports.input := s.ports.input.drop n
        ports.streamEnd := (sourceStep n s).ports.streamEnd
        ports.inputEnds := (sourceStep n s).ports.inputEnds }) ∧
      ((sourceStep n s).ports.streamEnd = true ↔
        s.ports.input.take n ≠ [] ∧ s.ports.input.drop n = [] ∧ s.ports.inputEnds = true) ∧
      ((sourceStep n s).ports.inputEnds = true ↔
        s.ports.inputEnds = true ∧ (sourceStep n s).ports.streamEnd = false) := by
  rcases sourceStep_cases n s with ⟨hno, he⟩ | ⟨-, htake, last, hlast, he⟩
  · have hnil : s.ports.input.take n = [] := hno.resolve_left (by simp [h])
    have hdrop : s.ports.input.drop n = s.ports.input := by
      conv_rhs => rw [← List.take_append_drop n s.ports.input, hnil, List.nil_append]
    have hend : s.ports.streamEnd = false := ((inReady_iff s).1 h).2
    rw [he, hnil, hdrop, List.append_nil]
    exact ⟨rfl, by simp [hend], by simp [hend]⟩
  · rw [he]
    refine ⟨rfl, ?_, by simp⟩
    simp only [hlast, htake, ne_eq, not_false_eq_true, true_and]
    exact and_comm

/-- FRM.START from IDLE takes the source's declaration of an empty stream as the end mark (R70, R152). -/
theorem exec_frmStart_end_mark {s : State} (h : s.frm.fstate = .idle) :
    ∃ t, exec .frmStart s = .next t ∧
      (t.ports.streamEnd = true ↔ s.ports.input = [] ∧ s.ports.inputEnds = true) ∧
      (t.ports.inputEnds = true ↔ s.ports.inputEnds = true ∧ s.ports.input ≠ []) := by
  rcases exec_frmStart s with ⟨-, hx⟩ | ⟨hne, -⟩
  · refine ⟨_, hx, inEmpty_iff s, Bool.and_eq_true_iff.trans (and_congr_right fun hends => ?_)⟩
    simp [inEmpty, hends]
  · exact absurd h hne

/-- Settles O60: each prescribed turn makes its agent's move, and FRM.START samples in_empty. -/
theorem sourceAndSinkMovesTransferInOrder : Obligations.SourceAndSinkMovesTransferInOrder := by
  unfold Obligations.SourceAndSinkMovesTransferInOrder
  refine ⟨fun s n ts ht => ?_, fun s bytes ends ts ht => step_of_turn ht, fun s n ts ht => step_of_turn ht,
    fun s => exec_frmStart_end_mark⟩
  have hready := inReady_iff { s with ports.turns := ts }
  rw [step_of_turn ht]
  refine ⟨fun h => congrArg _ (sourceStep_of_not_ready n ?_), fun h => ⟨_, rfl, sourceStep_of_ready n (hready.2 h)⟩⟩
  exact Bool.eq_false_iff.2 fun hr => h (hready.1 hr)

/-! ## A framer step beside a command of another unit -/

/-- The state with another CRC unit, another bit cursor and another response. -/
def withUnits (c : CrcUnit) (b : BitCursor) (r : Resp) (s : State) : State := { s with crc := c, bc := b, resp := r }

/-- R93: a command of the CRC unit or of the bit cursor writes nothing else. -/
theorem exec_unit_cmd_only_units {i : Instr} {s t : State} (hi : isCrcCmd i = true ∨ isBcCmd i = true)
    (h : exec i s = .next t) : t = withUnits t.crc t.bc t.resp s := by
  rcases hi with hc | hb
  · obtain ⟨_, _, _, h'⟩ := exec_crc_cases i s hc
    cases Host.Outcome.next.inj (h.symm.trans h')
    rfl
  · obtain ⟨_, _, _, _, -, -, rfl⟩ := exec_bc_effect hb h
    rfl

/-- The commands of the two units are command words, not packet forms. -/
theorem unit_cmd_format {i : Instr} (hi : isCrcCmd i = true ∨ isBcCmd i = true) : i.format = .cw32 := by
  cases i with
  | tspTei | tspRsv | tspPay | tspAf | tspAfpay | tspNosync => simp [isCrcCmd, isBcCmd] at hi
  | _ => rfl

/-- `F` writes the framer and the ports alone, and answers the same beside any other units. -/
def ActsBesideUnits (F : State → Out) : Prop :=
  ∀ s u, F s = .next u → u = { s with frm := u.frm, ports := u.ports } ∧
    ∀ c b r, F (withUnits c b r s) = .next (withUnits c b r u)

/-- The same for an operation that always answers. -/
theorem actsBesideUnits_next {g : State → State} (hframe : ∀ s, g s = { s with frm := (g s).frm, ports := (g s).ports })
    (hunits : ∀ c b r s, g (withUnits c b r s) = withUnits c b r (g s)) : ActsBesideUnits fun s => .next (g s) :=
  fun s u h => by
    cases Host.Outcome.next.inj h
    exact ⟨hframe s, fun c b r => congrArg _ (hunits c b r s)⟩

section
variable (c : CrcUnit) (b : BitCursor) (r : Resp)

theorem probeStep_withUnits (s : State) : probeStep (withUnits c b r s) = withUnits c b r (probeStep s) := by
  have hc : probeChoice (withUnits c b r s) = probeChoice s := rfl
  unfold probeStep
  rw [hc]
  cases probeChoice s <;> rfl

theorem countAf_withUnits (pid : Pid) (af : AfInfo) (s : State) :
    countAf pid af (withUnits c b r s) = withUnits c b r (countAf pid af s) := by
  unfold countAf
  rw [apply_ite (withUnits c b r)]
  rfl

theorem applyVerdict_withUnits (v : Verdict) (hd : Hdr) (p : List Byte) (s : State) :
    applyVerdict v hd p (withUnits c b r s) = withUnits c b r (applyVerdict v hd p s) := by
  cases v <;> rfl

theorem applyRole_withUnits (e : Bool) (cls : Role) (pid : Pid) (s : State) :
    applyRole e cls pid (withUnits c b r s) = withUnits c b r (applyRole e cls pid s) := by
  have hp : pidRead (withUnits c b r s) pid = pidRead s pid := rfl
  unfold applyRole
  rw [hp]
  split_ifs <;> rfl

/-- R93: part by part, a routed packet looks at the framer alone. -/
theorem routedUnit_withUnits (hd : Hdr) (afc : BitVec 2) (p : List Byte) (s : State) :
    routedUnit hd afc p (withUnits c b r s) = withUnits c b r (routedUnit hd afc p s) := by
  have htouch : touchPid hd.pid (advance (withUnits c b r s)) = withUnits c b r (touchPid hd.pid (advance s)) := rfl
  have hverdict : ∀ af u, verdictOf hd afc af p (withUnits c b r u) = verdictOf hd afc af p u := fun _ _ => rfl
  have hread : ∀ q u, pidRead (withUnits c b r u) q = pidRead u q := fun _ _ => rfl
  simp only [routedUnit, htouch, countAf_withUnits, hverdict, applyVerdict_withUnits, applyRole_withUnits, hread]
  rfl

end

/-- R93: a packet form acts beside the other units. -/
theorem exec_form_actsBesideUnits {i : Instr} (hi : i.format = .tspH) : ActsBesideUnits (exec i) := by
  intro s u h
  refine ⟨?_, fun c b r => ?_⟩
  · obtain ⟨_, hu, -⟩ := exec_form_frame hi h
    rw [hu]
  · obtain ⟨p, hp, ⟨w, rfl, rfl⟩ | ⟨hd, afc, rfl, rfl⟩ | ⟨hd, afc, rfl, rfl⟩⟩ := exec_form_cases hi h
    · exact exec_tspNosync w (s := withUnits c b r s) hp
    · exact exec_tspTei hd afc (s := withUnits c b r s) hp
    · rw [← routedUnit_withUnits]
      exact exec_routedForm hd afc (s := withUnits c b r s) hp

/-- R93: whichever step R151 enables, the framer acts beside the other units. -/
theorem framerStep_actsBesideUnits : ActsBesideUnits framerStep := by
  intro s u h
  have he : ∀ c b r, enabledStep (withUnits c b r s) = enabledStep s := fun _ _ _ => rfl
  have hn : ∀ c b r, nextHeader (withUnits c b r s) = nextHeader s := fun _ _ _ => rfl
  unfold framerStep at h ⊢
  simp only [he, hn]
  cases hk : enabledStep s <;> rw [hk] at h
  case idle | waiting => exact actsBesideUnits_next (g := id) (fun _ => rfl) (fun _ _ _ _ => rfl) s u h
  case probe => exact actsBesideUnits_next (fun s => by rw [probeStep_only_frm s]) probeStep_withUnits s u h
  case packet => exact exec_form_actsBesideUnits (decodeHeader_format _) s u h
  case finish => exact actsBesideUnits_next (g := endStep) (fun _ => rfl) (fun _ _ _ _ => rfl) s u h
  case abort => exact actsBesideUnits_next (g := abortStep) (fun _ => rfl) (fun _ _ _ _ => rfl) s u h

/-- Settles O58: the command writes the units the framer step does not look at, and the framer step writes the
framer and the ports, which the command does not look at. -/
theorem framerStepCommutesWithUnitCommands : Obligations.FramerStepCommutesWithUnitCommands := by
  unfold Obligations.FramerStepCommutesWithUnitCommands
  intro i s u hi h
  obtain ⟨hframe, hunits⟩ := framerStep_actsBesideUnits s u h
  obtain ⟨t, ht⟩ := exec_cw32_next i s (unit_cmd_format hi)
  have honly := exec_unit_cmd_only_units hi ht
  have hv : withUnits t.crc t.bc t.resp u = { t with frm := u.frm, ports := u.ports } := by
    rw [hframe, honly]
    rfl
  refine ⟨t, withUnits t.crc t.bc t.resp u, ht, ?_, ?_⟩
  · rw [hv, hframe]
    exact exec_unit_cmd_frm_ports hi ht u.frm u.ports
  · rw [← hunits, ← honly]

end Sys2Proof.Machine

/-! PROOFS. The encodings. First the fields of a command word and of a header word, each read back from the word that is
built of them, and the word built back from its fields; then the two decoders against the encoder; then the tables. -/

namespace Sys2Proof.Machine

open Sys2Proof

/-! ## Fields of a word -/

theorem flag_getLsbD {n : Nat} (w : BitVec n) (j : Nat) : flag (w.getLsbD j) = w.extractLsb' j 1 := by
  apply BitVec.eq_of_getLsbD_eq
  intro i hi
  obtain rfl : i = 0 := by omega
  simp

theorem append_eq_append_iff {m n : Nat} {a c : BitVec m} {b d : BitVec n} : a ++ b = c ++ d ↔ a = c ∧ b = d := by
  refine ⟨fun h => ⟨?_, ?_⟩, fun ⟨ha, hb⟩ => by rw [ha, hb]⟩
  · simpa [BitVec.extractLsb'_append_eq_left] using congrArg (·.extractLsb' n m) h
  · simpa [BitVec.extractLsb'_append_eq_right] using congrArg (·.extractLsb' 0 n) h

section
variable (opc : BitVec 8) (arg : BitVec 16)

@[simp] theorem cwOpc_encodeCmd : cwOpc (encodeCmd opc arg) = opc := by
  simp only [cwOpc, encodeCmd, BitVec.extractLsb'_append_eq_ite]
  simp

@[simp] theorem cwRsv_encodeCmd : cwRsv (encodeCmd opc arg) = 0 := by
  simp only [cwRsv, encodeCmd, BitVec.extractLsb'_append_eq_ite]
  simp

@[simp] theorem cwArg_encodeCmd : cwArg (encodeCmd opc arg) = arg := by
  simp only [cwArg, encodeCmd, BitVec.extractLsb'_append_eq_ite]
  simp

end

@[simp] theorem extractLsb'_byteArg_low (b : Byte) : (byteArg b).extractLsb' 0 8 = b :=
  BitVec.extractLsb'_append_eq_right

@[simp] theorem extractLsb'_byteArg_high (b : Byte) : (byteArg b).extractLsb' 8 8 = 0 :=
  BitVec.extractLsb'_append_eq_left

theorem byteArg_extractLsb' {a : BitVec 16} (h : a.extractLsb' 8 8 = 0) : byteArg (a.extractLsb' 0 8) = a := by
  rw [byteArg, ← BitVec.ofNat_eq_ofNat, ← h]
  exact BitVec.extractLsb'_append_extractLsb'

/-- R117: OPC, RSV and ARG are all of a command word. -/
theorem cwFields_append (w : Word32) : cwOpc w ++ cwRsv w ++ cwArg w = w := by
  simp only [cwOpc, cwRsv, cwArg, BitVec.extractLsb'_append_extractLsb'_eq_extractLsb']
  exact BitVec.extractLsb'_eq_self

theorem encodeCmd_cwFields {w : Word32} (hr : cwRsv w = 0) : encodeCmd (cwOpc w) (cwArg w) = w := by
  conv_rhs => rw [← cwFields_append w, hr]
  rfl

section
variable (tei : Bool) (h : Hdr) (afc : BitVec 2)

@[simp] theorem headerSync_encodeHeader : headerSync (encodeHeader tei h afc) = syncByte := by
  simp only [headerSync, encodeHeader, BitVec.extractLsb'_append_eq_ite]
  simp

@[simp] theorem headerTei_encodeHeader : headerTei (encodeHeader tei h afc) = tei := by
  simp only [headerTei, encodeHeader, BitVec.getLsbD_append]
  simp

@[simp] theorem headerAfc_encodeHeader : headerAfc (encodeHeader tei h afc) = afc := by
  simp only [headerAfc, encodeHeader, BitVec.extractLsb'_append_eq_ite]
  simp

@[simp] theorem headerFields_encodeHeader : headerFields (encodeHeader tei h afc) = h := by
  simp only [headerFields, encodeHeader, BitVec.extractLsb'_append_eq_ite, BitVec.getLsbD_append]
  simp

end

/-- R111: sync byte, tei, the fields beside afc, and afc are all of a header word. -/
theorem encodeHeader_headerFields {w : Word32} (hs : headerSync w = syncByte) :
    encodeHeader (headerTei w) (headerFields w) (headerAfc w) = w := by
  simp only [encodeHeader, ← hs, headerSync, headerTei, headerFields, headerAfc, flag_getLsbD,
    BitVec.extractLsb'_append_extractLsb'_eq_extractLsb']
  exact BitVec.extractLsb'_eq_self

/-- A header word cut where the masks of R113 change. -/
theorem headerSelectors_append (w : Word32) :
    headerSync w ++ flag (headerTei w) ++ w.extractLsb' 6 17 ++ headerAfc w ++ w.extractLsb' 0 4 = w := by
  simp only [headerSync, headerTei, headerAfc, flag_getLsbD, BitVec.extractLsb'_append_extractLsb'_eq_extractLsb']
  exact BitVec.extractLsb'_eq_self

theorem headerWord_cons (p₀ p₁ p₂ p₃ : Byte) (rest : List Byte) :
    headerWord (p₀ :: p₁ :: p₂ :: p₃ :: rest) = p₀ ++ p₁ ++ p₂ ++ p₃ := rfl

/-- R111: the five low bits of `p[1]` before `p[2]`, as the rule writes the pid. -/
theorem extractLsb'_append_eq_shiftLeft_or (p₁ p₂ : Byte) :
    p₁.extractLsb' 0 5 ++ p₂ = ((p₁ &&& 0x1F).setWidth 13 <<< 8) ||| p₂.setWidth 13 := by
  have hmask : ∀ j < 5, (0x1F#8).getLsbD j = true := by decide
  apply BitVec.eq_of_getLsbD_eq
  intro j hj
  simp only [BitVec.getLsbD_append, BitVec.getLsbD_or, BitVec.getLsbD_shiftLeft, BitVec.getLsbD_setWidth,
    BitVec.getLsbD_and, BitVec.getLsbD_extractLsb']
  by_cases h : j < 8
  · simp [h, hj]
  · have h5 : j - 8 < 5 := by omega
    have h13 : j - 8 < 13 := by omega
    have hp : p₂.getLsbD j = false := BitVec.getLsbD_of_ge p₂ j (by omega)
    simp [h, hj, h5, h13, hp, hmask]

/-- Settles O28: each field is cut out of the four bytes at its place; the pid spans two of them. -/
theorem headerFieldsAreWhereTheTableSays : Obligations.HeaderFieldsAreWhereTheTableSays := by
  unfold Obligations.HeaderFieldsAreWhereTheTableSays
  intro p₀ p₁ p₂ p₃ rest
  rw [headerWord_cons, ← extractLsb'_append_eq_shiftLeft_or]
  simp only [headerSync, headerTei, headerAfc, headerFields, BitVec.extractLsb'_append_eq_ite, BitVec.getLsbD_append]
  simp

/-! ## Command words: the decoder against the encoder -/

theorem decodeByteArg_encodeCmd (opc : BitVec 8) (b : Byte) (f : Byte → Instr) :
    decodeByteArg (encodeCmd opc (byteArg b)) f = .ok (f b) := by
  simp [decodeByteArg]

theorem decodeWideArg_encodeCmd (opc : BitVec 8) (n : BitVec 16) (f : BitVec 16 → Instr) :
    decodeWideArg (encodeCmd opc n) f = .ok (f n) := by
  simp [decodeWideArg]

theorem decodeCmd_encode {i : Instr} (hi : i.format = .cw32) : decodeCmd (encode i) = .ok i := by
  cases i with
  | sysReset | frmStart | frmAbort | crcInit | crcCheck | bcClear | bcRdue | bcRdse | bcAlign | bcRem => rfl
  | crcByte b =>
    simp only [encode, decodeCmd, cwOpc_encodeCmd]
    exact decodeByteArg_encodeCmd opcCrcByte b .crcByte
  | bcPush b =>
    simp only [encode, decodeCmd, cwOpc_encodeCmd]
    exact decodeByteArg_encodeCmd opcBcPush b .bcPush
  | bcRdu n =>
    simp only [encode, decodeCmd, cwOpc_encodeCmd]
    exact decodeWideArg_encodeCmd opcBcRdu n .bcRdu
  | tspTei | tspRsv | tspPay | tspAf | tspAfpay | tspNosync => cases hi

section
variable {w : Word32} {opc : BitVec 8} {j : Instr}

theorem encode_of_decodeNoArg {i : Instr} (hi : encode i = encodeCmd opc 0) (ho : cwOpc w = opc)
    (h : decodeNoArg w i = .ok j) : encode j = w := by
  unfold decodeNoArg at h
  split_ifs at h with hr ha
  cases h
  rw [hi, ← ho, ← not_not.1 ha, encodeCmd_cwFields (not_not.1 hr)]

theorem encode_of_decodeByteArg {f : Byte → Instr} (hf : ∀ b, encode (f b) = encodeCmd opc (byteArg b))
    (ho : cwOpc w = opc) (h : decodeByteArg w f = .ok j) : encode j = w := by
  unfold decodeByteArg at h
  split_ifs at h with hr ha
  cases h
  rw [hf, ← ho, byteArg_extractLsb' (not_not.1 ha), encodeCmd_cwFields (not_not.1 hr)]

theorem encode_of_decodeWideArg {f : BitVec 16 → Instr} (hf : ∀ n, encode (f n) = encodeCmd opc n)
    (ho : cwOpc w = opc) (h : decodeWideArg w f = .ok j) : encode j = w := by
  unfold decodeWideArg at h
  split_ifs at h with hr
  cases h
  rw [hf, ← ho, encodeCmd_cwFields (not_not.1 hr)]

/-- One row of the decoder: its opcode selects `x`, any other opcode goes on to `y`. -/
theorem encode_of_ite {c : Prop} [Decidable c] {x y : Except Reject Instr}
    (hx : c → x = .ok j → encode j = w) (hy : y = .ok j → encode j = w) :
    (if c then x else y) = .ok j → encode j = w := by
  split
  · exact hx ‹_›
  · exact hy

/-- Row by row of R118, in the decoder's order. -/
theorem encode_of_decodeCmd : decodeCmd w = .ok j → encode j = w :=
  encode_of_ite (encode_of_decodeNoArg rfl) <|
  encode_of_ite (encode_of_decodeNoArg rfl) <|
  encode_of_ite (encode_of_decodeNoArg rfl) <|
  encode_of_ite (encode_of_decodeNoArg rfl) <|
  encode_of_ite (encode_of_decodeByteArg fun _ => rfl) <|
  encode_of_ite (encode_of_decodeNoArg rfl) <|
  encode_of_ite (encode_of_decodeNoArg rfl) <|
  encode_of_ite (encode_of_decodeByteArg fun _ => rfl) <|
  encode_of_ite (encode_of_decodeWideArg fun _ => rfl) <|
  encode_of_ite (encode_of_decodeNoArg rfl) <|
  encode_of_ite (encode_of_decodeNoArg rfl) <|
  encode_of_ite (encode_of_decodeNoArg rfl) <|
  encode_of_ite (encode_of_decodeNoArg rfl) nofun

end

theorem wf_of_cw32 {i : Instr} (hi : i.format = .cw32) : i.wf = true := by
  cases i with
  | sysReset | frmStart | frmAbort | crcInit | crcByte | crcCheck => rfl
  | bcClear | bcPush | bcRdu | bcRdue | bcRdse | bcAlign | bcRem => rfl
  | tspTei | tspRsv | tspPay | tspAf | tspAfpay | tspNosync => cases hi

/-! ## Header words: the decoder against the encoder -/

theorem append_and_headerMask (a : BitVec 8) (b : BitVec 1) (c : BitVec 17) (d m : BitVec 2) (e : BitVec 4) :
    (a ++ b ++ c ++ d ++ e) &&& (0xFF#8 ++ 1#1 ++ 0#17 ++ m ++ 0#4) = a ++ b ++ 0#17 ++ (d &&& m) ++ 0#4 := by
  have ha : a &&& 0xFF#8 = a := BitVec.and_allOnes
  have hb : b &&& 1#1 = b := BitVec.and_allOnes
  simp only [BitVec.and_append, BitVec.and_zero, ha, hb]

/-- R113: what the first five rows test, the sync byte, tei and the bits `m` of afc. -/
theorem headerRow_iff (w : Word32) (t : Bool) (m k : BitVec 2) :
    w &&& (0xFF#8 ++ 1#1 ++ 0#17 ++ m ++ 0#4) = syncByte ++ flag t ++ 0#17 ++ k ++ 0#4 ↔
      headerSync w = syncByte ∧ headerTei w = t ∧ headerAfc w &&& m = k := by
  have hflag : flag (headerTei w) = flag t ↔ headerTei w = t := by
    cases headerTei w <;> cases t <;> decide
  conv_lhs => rw [← headerSelectors_append w]
  rw [append_and_headerMask, append_eq_append_iff, append_eq_append_iff, append_eq_append_iff, append_eq_append_iff,
    hflag]
  simp [and_assoc]

theorem afc_cases (k : BitVec 2) : k = 0 ∨ k = 1 ∨ k = 2 ∨ k = 3 := by
  revert k
  decide

/-- R113 in terms of the fields: the sync byte decides first, then tei, then afc. -/
theorem decodeHeader_eq (w : Word32) :
    decodeHeader w =
      if headerSync w = syncByte then
        if headerTei w then .tspTei (headerFields w) (headerAfc w) else routedForm (headerFields w) (headerAfc w)
      else .tspNosync w := by
  have htei : w &&& 0xFF800000 = 0x47800000 ↔ _ := headerRow_iff w true 0 0
  have hrouted := headerRow_iff w false 3
  have hrsv : w &&& 0xFF800030 = 0x47000000 ↔ _ := hrouted 0
  have hpay : w &&& 0xFF800030 = 0x47000010 ↔ _ := hrouted 1
  have haf : w &&& 0xFF800030 = 0x47000020 ↔ _ := hrouted 2
  have hafpay : w &&& 0xFF800030 = 0x47000030 ↔ _ := hrouted 3
  simp only [decodeHeader, htei, hrsv, hpay, haf, hafpay]
  by_cases hs : headerSync w = syncByte
  · cases ht : headerTei w
    · rcases afc_cases (headerAfc w) with h | h | h | h <;> simp [routedForm, hs, h]
    · simp [hs]
  · simp [hs]

theorem encode_routedForm (h : Hdr) (afc : BitVec 2) : encode (routedForm h afc) = encodeHeader false h afc := by
  rcases afc_cases afc with rfl | rfl | rfl | rfl <;> rfl

theorem routedForm_wf (h : Hdr) (afc : BitVec 2) : (routedForm h afc).wf = true := by
  unfold routedForm
  split_ifs <;> rfl

theorem routedForm_ne_tspNosync (h : Hdr) (afc : BitVec 2) (w : Word32) : routedForm h afc ≠ .tspNosync w := by
  unfold routedForm
  split_ifs <;> exact nofun

theorem decodeHeader_encodeHeader (tei : Bool) (h : Hdr) (afc : BitVec 2) :
    decodeHeader (encodeHeader tei h afc) = if tei then .tspTei h afc else routedForm h afc := by
  simp [decodeHeader_eq]

theorem decodeHeader_encode {i : Instr} (hi : i.format = .tspH) (hw : i.wf = true) : decodeHeader (encode i) = i := by
  cases i with
  | sysReset | frmStart | frmAbort | crcInit | crcByte | crcCheck => cases hi
  | bcClear | bcPush | bcRdu | bcRdue | bcRdse | bcAlign | bcRem => cases hi
  | tspTei h afc => exact decodeHeader_encodeHeader true h afc
  | tspRsv h => exact decodeHeader_encodeHeader false h 0
  | tspPay h => exact decodeHeader_encodeHeader false h 1
  | tspAf h => exact decodeHeader_encodeHeader false h 2
  | tspAfpay h => exact decodeHeader_encodeHeader false h 3
  | tspNosync w =>
    have hs : headerSync w ≠ syncByte := bne_iff_ne.1 hw
    rw [encode, decodeHeader_eq, if_neg hs]

theorem encode_decodeHeader (w : Word32) : encode (decodeHeader w) = w := by
  rw [decodeHeader_eq]
  split_ifs with hs ht
  · simpa only [encode, ht] using encodeHeader_headerFields hs
  · simpa only [encode_routedForm, ht] using encodeHeader_headerFields hs
  · rfl

theorem decodeHeader_wf (w : Word32) : (decodeHeader w).wf = true := by
  rw [decodeHeader_eq]
  split_ifs with hs ht
  · rfl
  · exact routedForm_wf _ _
  · exact bne_iff_ne.2 hs

/-! ## Both formats -/

/-- Settles O24: format by format, the decoder reads back the fields the encoder wrote. -/
theorem decodeOfEncodeIsIdentity : Obligations.DecodeOfEncodeIsIdentity := by
  unfold Obligations.DecodeOfEncodeIsIdentity
  intro i hw
  cases hf : i.format with
  | cw32 => exact decodeCmd_encode hf
  | tspH => exact congrArg Except.ok (decodeHeader_encode hf hw)

/-- Settles O25: format by format, the fields the decoder reads, with those it holds to a value, are the whole word. -/
theorem encodeOfDecodeIsIdentity : Obligations.EncodeOfDecodeIsIdentity := by
  unfold Obligations.EncodeOfDecodeIsIdentity
  intro f w i h
  cases f with
  | cw32 =>
    have hf := decodeCmd_format h
    exact ⟨encode_of_decodeCmd h, wf_of_cw32 hf, hf⟩
  | tspH =>
    obtain rfl := Except.ok.inj h
    exact ⟨encode_decodeHeader w, decodeHeader_wf w, decodeHeader_format w⟩

/-! ## The command table (R118) -/

theorem tableRow_selects_encode (i : Instr) : Laws.TableWord.Statement i := by
  cases i with
  | sysReset => exact Laws.TableWord.sysReset
  | frmStart => exact Laws.TableWord.frmStart
  | frmAbort => exact Laws.TableWord.frmAbort
  | crcInit => exact Laws.TableWord.crcInit
  | crcByte b => exact Laws.TableWord.crcByte b
  | crcCheck => exact Laws.TableWord.crcCheck
  | bcClear => exact Laws.TableWord.bcClear
  | bcPush b => exact Laws.TableWord.bcPush b
  | bcRdu n => exact Laws.TableWord.bcRdu n
  | bcRdue => exact Laws.TableWord.bcRdue
  | bcRdse => exact Laws.TableWord.bcRdse
  | bcAlign => exact Laws.TableWord.bcAlign
  | bcRem => exact Laws.TableWord.bcRem
  | tspTei h afc => exact Laws.TableWord.tspTei h afc
  | tspRsv h => exact Laws.TableWord.tspRsv h
  | tspPay h => exact Laws.TableWord.tspPay h
  | tspAf h => exact Laws.TableWord.tspAf h
  | tspAfpay h => exact Laws.TableWord.tspAfpay h
  | tspNosync w => exact Laws.TableWord.tspNosync w

theorem selects_of_decodeCmd {w : Word32} {i : Instr} (h : decodeCmd w = .ok i) : (tableRow i).selects w := by
  have hs := tableRow_selects_encode i (wf_of_cw32 (decodeCmd_format h))
  rwa [encode_of_decodeCmd h] at hs

theorem and_cwMask (w : Word32) (m : BitVec 16) :
    w &&& (0xFFFF#16 ++ m) = cwOpc w ++ cwRsv w ++ (cwArg w &&& m) := by
  have hhigh : (cwOpc w ++ cwRsv w) &&& 0xFFFF#16 = cwOpc w ++ cwRsv w := BitVec.and_allOnes
  conv_lhs => rw [← cwFields_append w]
  exact BitVec.and_append.trans (by rw [hhigh])

/-- A mask that keeps OPC and RSV, with RSV = 0 in the match, leaves only ARG open. -/
theorem eq_encodeCmd_of_and_cwMask {w : Word32} {opc : BitVec 8} {m x : BitVec 16}
    (h : w &&& (0xFFFF#16 ++ m) = opc ++ 0#8 ++ x) : w = encodeCmd opc (cwArg w) ∧ cwArg w &&& m = x := by
  rw [and_cwMask, append_eq_append_iff, append_eq_append_iff] at h
  obtain ⟨⟨ho, hr⟩, hx⟩ := h
  exact ⟨by rw [← ho, encodeCmd_cwFields hr], hx⟩

/-- The row of a byte command: mask 0xFFFFFF00, the opcode and zeros in the match. -/
theorem eq_encodeCmd_byteArg_of_and {w : Word32} {opc : BitVec 8}
    (h : w &&& (0xFFFF#16 ++ 0xFF00#16) = opc ++ 0#8 ++ 0#16) : ∃ b, w = encodeCmd opc (byteArg b) := by
  obtain ⟨hw, ha⟩ := eq_encodeCmd_of_and_cwMask h
  have hkeep : (cwArg w &&& 0xFF00#16).extractLsb' 8 8 = (cwArg w).extractLsb' 8 8 :=
    BitVec.extractLsb'_and.trans BitVec.and_allOnes
  have hhigh : (cwArg w).extractLsb' 8 8 = 0 := by
    rw [← hkeep, ha]
    rfl
  exact ⟨_, by rw [byteArg_extractLsb' hhigh, ← hw]⟩

/-- A word that selects a command's row is the word of a command of that row. -/
theorem decodeCmd_of_selects {i : Instr} {w : Word32} (hi : i.format = .cw32) (h : (tableRow i).selects w) :
    ∃ j, decodeCmd w = .ok j ∧ tableRow j = tableRow i := by
  cases i with
  | sysReset | frmStart | frmAbort | crcInit | crcCheck | bcClear | bcRdue | bcRdse | bcAlign | bcRem =>
    obtain rfl := BitVec.and_allOnes.symm.trans h
    exact ⟨_, rfl, rfl⟩
  | crcByte _ =>
    obtain ⟨b, rfl⟩ := eq_encodeCmd_byteArg_of_and (opc := opcCrcByte) h
    exact ⟨_, decodeCmd_encode (i := .crcByte b) rfl, rfl⟩
  | bcPush _ =>
    obtain ⟨b, rfl⟩ := eq_encodeCmd_byteArg_of_and (opc := opcBcPush) h
    exact ⟨_, decodeCmd_encode (i := .bcPush b) rfl, rfl⟩
  | bcRdu _ =>
    obtain ⟨hw, -⟩ := eq_encodeCmd_of_and_cwMask (m := 0) (x := 0) (opc := opcBcRdu) h
    rw [hw]
    exact ⟨_, decodeCmd_encode (i := .bcRdu _) rfl, rfl⟩
  | tspTei | tspRsv | tspPay | tspAf | tspAfpay | tspNosync => cases hi

theorem mem_cmdRows_iff {r : TableRow} : r ∈ cmdRows ↔ ∃ i : Instr, i.format = .cw32 ∧ tableRow i = r := by
  constructor
  · intro h
    obtain ⟨i, hi, rfl⟩ := List.mem_map.1 h
    refine ⟨i, ?_, rfl⟩
    revert i
    decide
  · rintro ⟨i, hi, rfl⟩
    cases i with
    | sysReset | frmStart | frmAbort | crcInit | crcByte | crcCheck => simp [cmdRows, tableRow]
    | bcClear | bcPush | bcRdu | bcRdue | bcRdse | bcAlign | bcRem => simp [cmdRows, tableRow]
    | tspTei | tspRsv | tspPay | tspAf | tspAfpay | tspNosync => cases hi

/-- Settles O26: a decoded word is the word of its command, which selects the command's row; a word that selects a row
decodes to a command of that row, so two rows it selects are the row of one command. -/
theorem commandTableDecidesDecoding : Obligations.CommandTableDecidesDecoding := by
  unfold Obligations.CommandTableDecidesDecoding
  intro w
  refine ⟨⟨?_, ?_⟩, fun i => selects_of_decodeCmd, ?_⟩
  · rintro ⟨i, h⟩
    exact ⟨tableRow i, mem_cmdRows_iff.2 ⟨i, decodeCmd_format h, rfl⟩, selects_of_decodeCmd h⟩
  · rintro ⟨r, hr, hs⟩
    obtain ⟨i, hi, rfl⟩ := mem_cmdRows_iff.1 hr
    obtain ⟨j, hj, -⟩ := decodeCmd_of_selects hi hs
    exact ⟨j, hj⟩
  · intro r₁ hr₁ r₂ hr₂ hs₁ hs₂
    obtain ⟨i₁, hi₁, rfl⟩ := mem_cmdRows_iff.1 hr₁
    obtain ⟨i₂, hi₂, rfl⟩ := mem_cmdRows_iff.1 hr₂
    obtain ⟨j₁, hj₁, he₁⟩ := decodeCmd_of_selects hi₁ hs₁
    obtain ⟨j₂, hj₂, he₂⟩ := decodeCmd_of_selects hi₂ hs₂
    obtain rfl := Except.ok.inj (hj₁.symm.trans hj₂)
    exact he₁.symm.trans he₂

/-! ## The table of packet forms (R113) -/

theorem decodeHeader_of_teiRow {w : Word32} (h : w &&& 0xFF800000 = 0x47800000) :
    decodeHeader w = .tspTei (headerFields w) (headerAfc w) := by
  obtain ⟨hs, ht, -⟩ := (headerRow_iff w true 0 0).1 h
  rw [decodeHeader_eq, if_pos hs, if_pos ht]

/-- One lemma for rows 2 to 5, which differ in the value of afc. -/
theorem decodeHeader_of_routedRow {w : Word32} {k : BitVec 2}
    (h : w &&& 0xFF800030 = syncByte ++ flag false ++ 0#17 ++ k ++ 0#4) :
    decodeHeader w = routedForm (headerFields w) k := by
  obtain ⟨hs, ht, hk⟩ := (headerRow_iff w false 3 k).1 h
  obtain rfl : headerAfc w = k := BitVec.and_allOnes.symm.trans hk
  simp [decodeHeader_eq, hs, ht]

theorem decodeHeader_eq_tspNosync_iff (w : Word32) : decodeHeader w = .tspNosync w ↔ headerSync w ≠ syncByte := by
  rw [decodeHeader_eq]
  split_ifs with hs ht <;> simp [hs, routedForm_ne_tspNosync]

/-- Settles O27: the row's mask and match fix the sync byte, tei and afc, and these fix the form. -/
theorem formTableDecidesDecoding : Obligations.FormTableDecidesDecoding := by
  unfold Obligations.FormTableDecidesDecoding
  intro w
  refine ⟨fun h => ⟨_, _, decodeHeader_of_teiRow h⟩, ?_, ?_, ?_, ?_, (decodeHeader_eq_tspNosync_iff w).symm⟩
  · exact fun h => ⟨_, decodeHeader_of_routedRow (k := 0) h⟩
  · exact fun h => ⟨_, decodeHeader_of_routedRow (k := 1) h⟩
  · exact fun h => ⟨_, decodeHeader_of_routedRow (k := 2) h⟩
  · exact fun h => ⟨_, decodeHeader_of_routedRow (k := 3) h⟩

/-- Settles O29: nine closed words, run through the decoders. -/
theorem writtenOutWordsDecode : Obligations.WrittenOutWordsDecode := by
  unfold Obligations.WrittenOutWordsDecode
  decide

end Sys2Proof.Machine

/-! PROOFS. The control of the framer: the transitions of FSTATE, the unit grid, which framer step is taken, what the
probe step decides, and the three commands of the framer. -/

namespace Sys2Proof.Machine

open Sys2Proof

/-! ## The transitions of FSTATE -/

/-- R150: the transition of FSTATE from `f` to `f'`; `starts` says that FRM.START is executed, `resets` that the block
is reset. -/
inductive Transition (starts resets : Prop) (f f' : Framer) : Prop where
  | stay (h : f'.fstate = f.fstate)
  | start (hf : f.fstate = .idle) (hf' : f'.fstate = .probe) (h : starts)
  | progress (h : (f.fstate, f'.fstate) ∈
      [(FState.probe, FState.run), (.probe, .fail), (.probe, .aborted), (.run, .done), (.run, .aborted)])
  | reset (hf' : f' = Framer.reset) (h : resets)

/-- Of the commands, FRM.START and SYS.RESET alone change FSTATE. -/
theorem exec_cw32_transition {i : Instr} {s t : State} (hi : i.format = .cw32) (h : exec i s = .next t) :
    Transition (i = .frmStart) (i = .sysReset) s.frm t.frm := by
  rcases cw32_cases i hi with rfl | rfl | rfl | hc | hb
  · exact .reset (by rw [exec_sysReset_inv h]; rfl) rfl
  · rcases exec_frmStart s with ⟨hf, h'⟩ | ⟨-, h'⟩
    all_goals cases Host.Outcome.next.inj (h.symm.trans h')
    · exact .start hf rfl rfl
    · exact .stay rfl
  · rcases exec_frmAbort s with ⟨-, h'⟩ | ⟨-, h'⟩
    all_goals cases Host.Outcome.next.inj (h.symm.trans h')
    all_goals exact .stay rfl
  · exact .stay (by rw [(exec_unit_cmd_frame (.inl hc) h).1])
  · exact .stay (by rw [(exec_unit_cmd_frame (.inr hb) h).1])

/-- The transition a move makes; `o` is the prescribed turn. -/
theorem Move.transition {o : Option Turn} {s s' : State} (h : Move o s s') :
    Transition (o.bind turnCmd = some .frmStart)
      (o = some (.host .reset) ∨ o.bind turnCmd = some .sysReset) s.frm s'.frm := by
  cases h with
  | stay | read | illegal | sink | present | writePidSel => exact .stay rfl
  | writeCfg v => exact .stay (by rw [writeCfg_frm])
  | writeBcStatus v => exact .stay (by rw [writeBcStatus_frm])
  | source n => exact .stay (by rw [sourceStep_frm])
  | packet i t _ _ hi h =>
    obtain ⟨_, -, -, hfs, -⟩ := exec_form_frame hi h
    exact .stay hfs
  | reset ho => exact .reset rfl (.inl ho)
  | command i t hi ho h =>
    cases exec_cw32_transition hi h with
    | stay h => exact .stay h
    | start hf hf' hstart => exact .start hf hf' (hstart ▸ ho)
    | progress h => exact .progress h
    | reset hf' hreset => exact .reset hf' (.inr (hreset ▸ ho))
  | probe hf =>
    rcases probeStep_cases s with ⟨_, _, _, he⟩ | ⟨_, he⟩ <;> rw [he] <;> exact .progress (by simp [hf])
  | finish hf => exact .progress (by simp [hf])
  | abort hf => rcases hf with hf | hf <;> exact .progress (by simp [hf])

/-- Settles O35: the transition of the move a step makes, whose turn is the head of the list. -/
theorem stepKeepsToTheTransitionTable : Obligations.StepKeepsToTheTransitionTable := by
  unfold Obligations.StepKeepsToTheTransitionTable
  intro s s' h
  cases (step_move h).transition with
  | stay h => exact .inl h
  | start hf hf' hstart =>
    obtain ⟨t, ht, hcmd⟩ := Option.bind_eq_some_iff.1 hstart
    obtain ⟨ts, hts⟩ := List.head?_eq_some_iff.1 ht
    exact .inr (.inl ⟨hf, hf', t, ts, hts, hcmd⟩)
  | progress h => exact .inr (.inr (.inl h))
  | reset hf' hreset =>
    refine .inr (.inr (.inr ⟨by rw [hf']; rfl, hf', ?_⟩))
    rcases hreset with ho | ho
    · exact resetIsNext_of_head ho (.inl rfl)
    · obtain ⟨t, ht, hcmd⟩ := Option.bind_eq_some_iff.1 ho
      exact resetIsNext_of_head ht (.inr hcmd)

/-! ## The unit grid -/

section
variable {s : State}

theorem gridOk_of_unlocked (hf : s.frm.fstate = .idle ∨ s.frm.fstate = .probe ∨ s.frm.fstate = .fail)
    (h : s.frm.pktCount = 0 ∧ s.frm.pos = 0) : GridOk s := by
  refine ⟨fun _ => h, fun hrun => ?_, fun hdone => ?_⟩
  · simp [hrun] at hf
  · simp [hdone] at hf

theorem gridOk_of_run (hf : s.frm.fstate = .run)
    (hpos : s.frm.pos.toNat = s.frm.pktCount.toNat * s.frm.stride.toNat)
    (hle : s.frm.pos.toNat ≤ s.ports.stream.length) : GridOk s :=
  ⟨by simp [hf], fun _ => ⟨hpos, hle⟩, by simp [hf]⟩

theorem gridOk_of_done (hf : s.frm.fstate = .done) (hend : s.ports.streamEnd = true)
    (hcount : s.frm.pktCount.toNat = s.ports.stream.length / s.frm.stride.toNat) : GridOk s :=
  ⟨by simp [hf], by simp [hf], fun _ => ⟨hend, hcount⟩⟩

theorem gridOk_of_aborted (hf : s.frm.fstate = .aborted) : GridOk s :=
  ⟨by simp [hf], by simp [hf], by simp [hf]⟩

end

/-- A command leaves the grid alone, starts a run from its origin, or resets. -/
theorem exec_cw32_keeps_gridOk {i : Instr} {s t : State} (hi : i.format = .cw32) (hs : GridOk s)
    (h : exec i s = .next t) : GridOk t := by
  obtain ⟨_, _, _, u, hu, -, rfl⟩ := exec_cw32_effect hi h
  cases hu with
  | none | request | crc | bc => exact hs
  | start hf => exact gridOk_of_unlocked (.inr (.inl rfl)) (hs.1 (.inl hf))
  | reset => exact gridOk_of_unlocked (.inl rfl) ⟨rfl, rfl⟩

/-- The probe step leaves the framer at the origin of the grid (R157, R158). -/
theorem probeStep_keeps_gridOk {s : State} (hf : s.frm.fstate = .probe) (hs : GridOk s) : GridOk (probeStep s) := by
  have horigin := hs.1 (.inr (.inl hf))
  rcases probeStep_cases s with ⟨row, -, -, he⟩ | ⟨-, he⟩ <;> rw [he]
  · refine gridOk_of_run rfl ?_ ?_ <;> simp [horigin]
  · exact gridOk_of_unlocked (.inr (.inr rfl)) horigin

/-- Bytes are added only in PROBE and RUN, where the grid bounds POS by what has arrived (R70, R322). -/
theorem sourceStep_keeps_gridOk {s : State} (n : Nat) (hs : GridOk s) : GridOk (sourceStep n s) := by
  rcases sourceStep_cases n s with ⟨-, he⟩ | ⟨hready, -, _, -, he⟩ <;> rw [he]
  · exact hs
  · rcases ((inReady_iff s).1 hready).1 with hf | hf
    · exact gridOk_of_unlocked (.inr (.inl hf)) (hs.1 (.inr (.inl hf)))
    · obtain ⟨hpos, hle⟩ := hs.2.1 hf
      exact gridOk_of_run hf hpos (hle.trans (by simp))

/-- R160: fewer than STRIDE bytes remain, so the units consumed are all the whole units. -/
theorem endStep_keeps_gridOk {s : State} (hf : s.frm.fstate = .run) (hu : unitReady s = false)
    (hend : s.ports.streamEnd = true) (hs : GridOk s) : GridOk (endStep s) := by
  obtain ⟨hpos, hle⟩ := hs.2.1 hf
  have hshort : s.ports.stream.length < s.frm.pos.toNat + s.frm.stride.toNat := by simpa [unitReady] using hu
  refine gridOk_of_done rfl hend (Nat.div_eq_of_lt_le ?_ ?_).symm
  · exact hpos ▸ hle
  · rw [Nat.succ_mul]
    exact hpos ▸ hshort

/-- R180: one unit is one step on the grid; inside a stream of fewer than 2^64 bytes neither POS nor PKT_COUNT wraps. -/
theorem exec_form_keeps_gridOk {i : Instr} {s t : State} (hi : i.format = .tspH) (hf : s.frm.fstate = .run)
    (hlen : s.ports.stream.length < 2 ^ 64) (hs : GridOk s) (h : exec i s = .next t) : GridOk t := by
  obtain ⟨hpos, hle⟩ := hs.2.1 hf
  obtain ⟨p, ⟨hfit, hcore, -⟩, -⟩ := exec_form_cases hi h
  obtain ⟨_, ht, -, hfs, hst, -, -, -, hk, hp, -⟩ := exec_form_frame hi h
  have hstream : t.ports.stream = s.ports.stream := by rw [ht]
  have hpos' : t.frm.pos.toNat = s.frm.pos.toNat + s.frm.stride.toNat := by
    rw [hp, BitVec.toNat_add, BitVec.toNat_setWidth, Nat.mod_eq_of_lt (by omega), Nat.mod_eq_of_lt (by omega)]
  have hcount : s.frm.pktCount.toNat ≤ s.frm.pos.toNat := hpos ▸ Nat.le_mul_of_pos_right _ (by omega)
  have hk' : t.frm.pktCount.toNat = s.frm.pktCount.toNat + 1 := by
    rw [hk, BitVec.toNat_add, Nat.mod_eq_of_lt]
    · rfl
    · change s.frm.pktCount.toNat + 1 < 2 ^ 64
      omega
  refine gridOk_of_run (hfs.trans hf) ?_ ?_
  · rw [hpos', hk', hst, hpos, Nat.succ_mul]
  · rw [hpos', hstream]
    exact hfit

/-- One move keeps the grid. -/
theorem Move.keeps_gridOk {o : Option Turn} {s s' : State} (h : Move o s s') (hs : GridOk s)
    (hlen : s'.ports.stream.length < 2 ^ 64) : GridOk s' := by
  cases h with
  | stay | read | illegal | writePidSel | sink | present => exact hs
  | writeCfg v => rwa [GridOk, writeCfg_frm, writeCfg_ports]
  | writeBcStatus v => rwa [GridOk, writeBcStatus_frm, writeBcStatus_ports]
  | reset => exact gridOk_of_unlocked (.inl rfl) ⟨rfl, rfl⟩
  | command i t hi _ h => exact exec_cw32_keeps_gridOk hi hs h
  | probe hf => exact probeStep_keeps_gridOk hf hs
  | packet i t hf _ hi h =>
    rw [exec_form_only_frm hi h] at hlen
    exact exec_form_keeps_gridOk hi hf hlen hs h
  | finish hf _ hu hend => exact endStep_keeps_gridOk hf hu hend hs
  | abort => exact gridOk_of_aborted rfl
  | source n => exact sourceStep_keeps_gridOk n hs

/-- Settles O44: the grid is kept by every move; that a unit is longer than 0 bytes follows from its core, so the proof
needs no agreement of STRIDE with FSTATE. -/
theorem stepKeepsUnitGridAndFloorCount : Obligations.StepKeepsUnitGridAndFloorCount := by
  unfold Obligations.StepKeepsUnitGridAndFloorCount
  exact fun s s' _ hs h hlen => (step_move h).keeps_gridOk hs hlen

/-! ## Which framer step is taken -/

section
variable {s : State}

/-- R150, R151: no step is enabled in the four states in which the framer rests. -/
theorem framerStep_at_rest
    (hf : s.frm.fstate = .idle ∨ s.frm.fstate = .done ∨ s.frm.fstate = .fail ∨ s.frm.fstate = .aborted) :
    framerStep s = .next s := by
  have he : enabledStep s = .idle := by
    rcases hf with hf | hf | hf | hf <;> simp [enabledStep, hf]
  simp only [framerStep, he]

/-- R76, R327: a record at the record output holds up every step. -/
theorem framerStep_of_record (hp : s.ports.recPort ≠ []) : framerStep s = .next s := by
  have he : enabledStep s = .idle ∨ enabledStep s = .waiting := by
    cases hf : s.frm.fstate <;> simp [enabledStep, hf, hp]
  rcases he with he | he <;> simp only [framerStep, he]

theorem enabledStep_in_probe (hf : s.frm.fstate = .probe) (hp : s.ports.recPort = []) (ha : ¬ AbortDue s) :
    enabledStep s = if probeReady s then .probe else .waiting := by
  rw [← abortDue_iff] at ha
  simp [enabledStep, hf, hp, ha]

theorem enabledStep_in_run (hf : s.frm.fstate = .run) (hp : s.ports.recPort = []) (ha : ¬ AbortDue s) :
    enabledStep s = if unitReady s then .packet else if s.ports.streamEnd then .finish else .waiting := by
  rw [← abortDue_iff] at ha
  simp [enabledStep, hf, hp, ha]

theorem enabledStep_of_abortDue (hp : s.ports.recPort = []) (ha : AbortDue s) : enabledStep s = .abort := by
  have hd := (abortDue_iff s).2 ha
  rcases ha.2 with hf | ⟨hf, -⟩ <;> simp [enabledStep, hf, hp, hd]

theorem probeReady_iff (s : State) :
    probeReady s = true ↔ s.ports.streamEnd = true ∨ s.cfg.probeWindow.toNat ≤ s.ports.stream.length := by
  simp [probeReady]

theorem unitReady_iff (s : State) :
    unitReady s = true ↔ s.frm.pos.toNat + s.frm.stride.toNat ≤ s.ports.stream.length := by
  simp [unitReady]

/-- R182: the header word that selects the form is that of the core. -/
theorem nextHeader_of_coreAt {p : List Byte} (h : CoreAt s p) : nextHeader s = headerWord p := by
  rw [nextHeader, (fetchCore_eq_some_iff s p).2 h, Option.getD_some]

/-- R151, R180: in RUN a unit that has arrived is what the framer moves on. -/
theorem enabledStep_of_coreAt {p : List Byte} (hf : s.frm.fstate = .run) (hp : s.ports.recPort = [])
    (ha : ¬ AbortDue s) (h : CoreAt s p) : enabledStep s = .packet := by
  rw [enabledStep_in_run hf hp ha, if_pos ((unitReady_iff s).2 h.1)]

theorem framerStep_of_coreAt {p : List Byte} (hf : s.frm.fstate = .run) (hp : s.ports.recPort = [])
    (ha : ¬ AbortDue s) (h : CoreAt s p) : framerStep s = exec (decodeHeader (headerWord p)) s := by
  simp only [framerStep, enabledStep_of_coreAt hf hp ha h, nextHeader_of_coreAt h]

/-- R151: in PROBE the probe step, once the probed bytes or the end mark are there. -/
theorem framerStep_of_probeReady (hf : s.frm.fstate = .probe) (hp : s.ports.recPort = []) (ha : ¬ AbortDue s)
    (h : s.ports.streamEnd = true ∨ s.cfg.probeWindow.toNat ≤ s.ports.stream.length) :
    framerStep s = .next (probeStep s) := by
  have he : enabledStep s = .probe := by rw [enabledStep_in_probe hf hp ha, if_pos ((probeReady_iff s).2 h)]
  simp only [framerStep, he]

/-- R151: in PROBE nothing before that. -/
theorem framerStep_probe_waits (hf : s.frm.fstate = .probe) (hp : s.ports.recPort = []) (ha : ¬ AbortDue s)
    (hend : s.ports.streamEnd = false) (h : s.ports.stream.length < s.cfg.probeWindow.toNat) :
    framerStep s = .next s := by
  have hr : ¬ probeReady s = true := by rw [probeReady_iff, hend]; simpa using h
  have he : enabledStep s = .waiting := by rw [enabledStep_in_probe hf hp ha, if_neg hr]
  simp only [framerStep, he]

/-- R151, R160: in RUN, with fewer than STRIDE bytes left, the end mark decides between the end step and none. -/
theorem framerStep_of_short_rest (hf : s.frm.fstate = .run) (hp : s.ports.recPort = []) (ha : ¬ AbortDue s)
    (h : s.ports.stream.length < s.frm.pos.toNat + s.frm.stride.toNat) :
    framerStep s = .next (if s.ports.streamEnd then endStep s else s) := by
  have hu : ¬ unitReady s = true := by rw [unitReady_iff]; omega
  have he : enabledStep s = if s.ports.streamEnd then .finish else .waiting := by
    rw [enabledStep_in_run hf hp ha, if_neg hu]
  cases hend : s.ports.streamEnd <;> simp [framerStep, he, hend]

/-- R151, R167: an abort that is due comes first. -/
theorem framerStep_of_abortDue (hp : s.ports.recPort = []) (ha : AbortDue s) :
    framerStep s = .next (abortStep s) := by
  simp only [framerStep, enabledStep_of_abortDue hp ha]

end

/-- Settles O33: one lemma for each step the framer can take and for each thing it can wait for. -/
theorem framerTakesTheEnabledStep : Obligations.FramerTakesTheEnabledStep := by
  unfold Obligations.FramerTakesTheEnabledStep
  intro s
  refine ⟨framerStep_at_rest, framerStep_of_record, fun hp => ⟨framerStep_of_abortDue hp, ?_, ?_, ?_, ?_, ?_⟩⟩
  · intro hf ha hend h
    rw [framerStep_of_short_rest hf hp ha h, if_pos hend]
    rfl
  · exact fun hf ha p h => framerStep_of_coreAt hf hp ha h
  · exact fun hf ha h => framerStep_of_probeReady hf hp ha h
  · intro hf ha hend h
    rw [framerStep_of_short_rest hf hp ha h, hend]
    rfl
  · exact fun hf ha hend h => framerStep_probe_waits hf hp ha hend h

/-- Settles O32: with a turn prescribed or none, the step is the framer's move, which is the form of the unit. -/
theorem stepRunsTheDecodedUnit : Obligations.StepRunsTheDecodedUnit := by
  unfold Obligations.StepRunsTheDecodedUnit
  refine fun s p hf ha hcore hp => ⟨fun ts ht => ?_, fun ht => ?_⟩
  · rw [step_of_turn ht]
    exact framerStep_of_coreAt hf hp ha hcore
  · have hfree : step s = framerStep s := by
      simp [step, ht, freeRun, hp, enabledStep_of_coreAt hf hp ha hcore]
    rw [hfree]
    exact framerStep_of_coreAt hf hp ha hcore

/-! ## The probe step -/

section
variable {s : State}

theorem probeStep_of_choice {row : StrideRow} (h : probeChoice s = some row) : probeStep s = lockStride row s := by
  simp only [probeStep, h]

theorem probeStep_of_no_choice (h : probeChoice s = none) : probeStep s = { s with frm.fstate := .fail } := by
  simp only [probeStep, h]
  rfl

/-- R154: a forced stride is the choice, whatever the stream holds. -/
theorem probeChoice_of_forced {row : StrideRow} (h : forcedRow s.cfg.strideMode = some row) :
    probeChoice s = some row := by
  simp only [probeChoice, h]

/-- R155: auto-detection chooses the first candidate of the table that passes. -/
theorem probeChoice_of_auto (h : s.cfg.strideMode = 0) :
    (ProbePasses s 188 0 → probeChoice s = some row188) ∧
    (¬ ProbePasses s 188 0 → ProbePasses s 192 4 → probeChoice s = some row192) ∧
    (¬ ProbePasses s 188 0 → ¬ ProbePasses s 192 4 → ProbePasses s 204 0 → probeChoice s = some row204) ∧
    (¬ ProbePasses s 188 0 → ¬ ProbePasses s 192 4 → ¬ ProbePasses s 204 0 → ProbePasses s 208 4 →
      probeChoice s = some row208) ∧
    (¬ ProbePasses s 188 0 → ¬ ProbePasses s 192 4 → ¬ ProbePasses s 204 0 → ¬ ProbePasses s 208 4 →
      probeChoice s = none) := by
  have hfind : probeChoice s =
      strideTable.find? (passes s.ports.stream s.cfg.probeMinRun.toNat (visibleBytes s)) := by
    simp [probeChoice, forcedRow, h]
  have h188 : passes _ _ _ row188 = true ↔ ProbePasses s 188 0 := passes_iff s row188
  have h192 : passes _ _ _ row192 = true ↔ ProbePasses s 192 4 := passes_iff s row192
  have h204 : passes _ _ _ row204 = true ↔ ProbePasses s 204 0 := passes_iff s row204
  have h208 : passes _ _ _ row208 = true ↔ ProbePasses s 208 4 := passes_iff s row208
  rw [hfind, strideTable]
  refine ⟨fun y => ?_, fun n₁ y => ?_, fun n₁ n₂ y => ?_, fun n₁ n₂ n₃ y => ?_, fun n₁ n₂ n₃ n₄ => ?_⟩
  · simp [h188.2 y]
  · simp [h188, n₁, h192.2 y]
  · simp [h188, n₁, h192, n₂, h204.2 y]
  · simp [h188, n₁, h192, n₂, h204, n₃, h208.2 y]
  · simp [h188, n₁, h192, n₂, h204, n₃, h208, n₄]

end

/-- Settles O34: the enabled step is the probe step, and its choice is the forced row or the first that passes. -/
theorem probeStepLocksOrFails : Obligations.ProbeStepLocksOrFails := by
  unfold Obligations.ProbeStepLocksOrFails
  intro s hf hab hp hready
  have ha : ¬ AbortDue s := fun h => by simp [AbortDue, hab] at h
  have hstep : framerStep s = .next (probeStep s) := framerStep_of_probeReady hf hp ha hready
  have hlock : ∀ row, probeChoice s = some row → Locks s row.stride row.lead row.trail := fun row h => by
    rw [Locks, hstep, probeStep_of_choice h]
    rfl
  have hforced : ∀ row mode, forcedRow mode = some row → s.cfg.strideMode = mode →
      Locks s row.stride row.lead row.trail := fun row mode h hm => hlock row (probeChoice_of_forced (hm ▸ h))
  refine ⟨hforced row188 1 rfl, hforced row192 2 rfl, hforced row204 3 rfl, hforced row208 4 rfl, fun hauto => ?_⟩
  obtain ⟨h188, h192, h204, h208, hnone⟩ := probeChoice_of_auto hauto
  refine ⟨fun y => hlock row188 (h188 y), fun n₁ y => hlock row192 (h192 n₁ y),
    fun n₁ n₂ y => hlock row204 (h204 n₁ n₂ y), fun n₁ n₂ n₃ y => hlock row208 (h208 n₁ n₂ n₃ y),
    fun n₁ n₂ n₃ n₄ => ?_⟩
  rw [hstep, probeStep_of_no_choice (hnone n₁ n₂ n₃ n₄)]

/-! ## The commands of the framer -/

/-- R40: what a command answers is what RESP holds. -/
theorem respIs_respond (opc : BitVec 8) (c : Cause) (v : Word32) (s : State) : RespIs (respond opc c v s) opc c v :=
  ⟨rfl, rfl, rfl, decide_eq_true_iff⟩

/-- R40: RESP as the host reads it after a success. -/
theorem regRead_resp_respondOk (opc : BitVec 8) (v : Word32) (s : State) :
    regRead (respondOk opc v s) 0x008 = respWord { opc, err := false, cause := .none, value := v } :=
  regRead_slotAddr _ .resp

theorem regRead_frmStatus (s : State) : regRead s 0x018 = frmStatusWord s.frm := regRead_slotAddr s .frmStatus

/-- Settles O2: SYS.RESET is the hardware reset with its answer in RESP; FRM_STATUS reads the reset framer. -/
theorem softResetIsHardwareResetButResp : Obligations.SoftResetIsHardwareResetButResp := by
  unfold Obligations.SoftResetIsHardwareResetButResp
  refine fun s => ⟨respondOk opcSysReset 0 (hardReset s), hardReset s, rfl, rfl, rfl,
    atReset_of_units rfl rfl rfl rfl rfl rfl, ?_, ?_, rfl, rfl, rfl⟩
  · rw [regRead_resp_respondOk]
    decide
  · rw [regRead_frmStatus, respondOk_frm, hardReset_frm]
    decide

/-- Settles O3: the two cases of FRM.START. -/
theorem frmStartStartsOnlyFromIdle : Obligations.FrmStartStartsOnlyFromIdle := by
  unfold Obligations.FrmStartStartsOnlyFromIdle
  intro s
  rcases exec_frmStart s with ⟨hf, hx⟩ | ⟨hf, hx⟩
  · exact ⟨fun _ => ⟨_, hx, rfl, respIs_respond _ _ _ _, by rw [regRead_resp_respondOk]; decide, rfl, rfl,
      ⟨rfl, rfl, rfl, rfl⟩, ⟨fun _ => rfl, fun _ => rfl, rfl⟩, rfl⟩, fun hne => absurd hf hne⟩
  · exact ⟨fun he => absurd he hf, fun _ => ⟨_, hx, respIs_respond _ _ _ _, rfl⟩⟩

/-- Settles O4: the two cases of FRM.ABORT. -/
theorem frmAbortRequestsOnlyWhileRunning : Obligations.FrmAbortRequestsOnlyWhileRunning := by
  unfold Obligations.FrmAbortRequestsOnlyWhileRunning
  intro s
  rcases exec_frmAbort s with ⟨hf, hx⟩ | ⟨hf, hx⟩
  · exact ⟨fun _ => ⟨_, hx, rfl, respIs_respond _ _ _ _, by rw [regRead_resp_respondOk]; decide, rfl, rfl, rfl,
      ⟨rfl, rfl, rfl, rfl⟩, ⟨fun _ => rfl, fun _ => rfl, rfl⟩⟩, fun hne => absurd hf (not_or.2 hne)⟩
  · exact ⟨fun he => absurd he hf, fun _ => ⟨_, hx, respIs_respond _ _ _ _, rfl⟩⟩

end Sys2Proof.Machine

/-! PROOFS. The packet step. First, said once: that every form answers on a unit that has arrived, and what a routed form
leaves and emits there. Then the parts of the record: the adaptation field, the payload, the continuity verdict, the role. -/

namespace Sys2Proof.Machine

open Sys2Proof

/-! ## The six forms -/

/-- R180: no form stops on a unit that has arrived. -/
theorem exec_form_next {i : Instr} {s : State} {p : List Byte} (hi : i.format = .tspH) (hp : CoreAt s p) :
    ∃ t, exec i s = .next t := by
  cases i with
  | sysReset | frmStart | frmAbort | crcInit | crcByte | crcCheck => cases hi
  | bcClear | bcPush | bcRdu | bcRdue | bcRdse | bcAlign | bcRem => cases hi
  | tspTei | tspRsv | tspPay | tspAf | tspAfpay | tspNosync => exact ⟨_, onUnit_eq_next _ s p hp⟩

/-- Settles O46: every form answers, and its frame holds for every form alike. -/
theorem everyFormCountsAdvancesAndEmitsOnce : Obligations.EveryFormCountsAdvancesAndEmitsOnce := by
  unfold Obligations.EveryFormCountsAdvancesAndEmitsOnce
  intro i s p hi hp
  obtain ⟨t, hx⟩ := exec_form_next hi hp
  obtain ⟨r, ht, hout, hfstate, hstride, hlead, htrail, habort, hcount, hpos, hindex, hoffset⟩ := exec_form_frame hi hx
  refine ⟨t, r, ⟨hx, hout⟩, hcount, hpos, hindex, hoffset, ?_⟩
  rw [ht]
  exact ⟨rfl, rfl, rfl, ⟨rfl, rfl, rfl, rfl⟩, rfl, hfstate, hstride, hlead, htrail, habort, fun _ => rfl⟩

/-- Settles O47: neither form reaches PIDTAB, LASTPKT or a counter of routed packets. -/
theorem unroutedFormsTouchNoPid : Obligations.UnroutedFormsTouchNoPid := by
  unfold Obligations.UnroutedFormsTouchNoPid
  intro s p hp
  refine ⟨fun w => ⟨nosyncUnit s, ⟨exec_tspNosync w hp, rfl⟩, rfl, rfl, ?_⟩,
    fun h afc => ⟨teiUnit h afc s, ⟨exec_tspTei h afc hp, rfl⟩, rfl, rfl, ?_⟩⟩
  all_goals exact ⟨fun _ => rfl, fun _ => rfl, rfl, rfl, rfl, rfl, rfl⟩

/-! ## The routed forms -/

/-- The record a routed packet emits, from the state before it (R208). -/
def recordOf (h : Hdr) (afc : BitVec 2) (p : List Byte) (s : State) : Record :=
  routedRecord h afc (parseAf afc p) (verdictBefore h afc p s) (mismatchBefore h afc p s) (recordAfter h afc p s).role p
    s.frm.pktCount s.frm.pos

/-- What a routed packet leaves in the record and the store of its own PID, in those of the others, and in the counters. -/
structure RoutedEffect (h : Hdr) (afc : BitVec 2) (p : List Byte) (s t : State) : Prop where
  record : pidRead t h.pid = recordAfter h afc p s
  store : lastRead t h.pid = if isDup (verdictBefore h afc p s) then lastRead s h.pid else p
  others : ∀ q, q ≠ h.pid → pidRead t q = pidRead s q ∧ lastRead t q = lastRead s q
  pidCount : t.frm.pidCount = s.frm.pidCount + (if (pidRead s h.pid).valid then 0 else 1)
  afErrors : t.frm.afErrors = s.frm.afErrors + (if (parseAf afc p).err then 1 else 0)
  dupCount : t.frm.dupCount = s.frm.dupCount + (if isDup (verdictBefore h afc p s) then 1 else 0)
  ccErrors : t.frm.ccErrors = s.frm.ccErrors + (if isCcErr (verdictBefore h afc p s) then 1 else 0)
  roleErrors : t.frm.roleErrors = s.frm.roleErrors + (if mismatchBefore h afc p s then 1 else 0)
  syncErrors : t.frm.syncErrors = s.frm.syncErrors
  teiCount : t.frm.teiCount = s.frm.teiCount

/-- R186: a routed form runs on a unit that has arrived, emits its record and has its effect. -/
theorem routedForm_runsTo (h : Hdr) (afc : BitVec 2) {s : State} {p : List Byte} (hp : CoreAt s p) :
    ∃ t, RunsTo (routedForm h afc) s t (recordOf h afc p s) ∧ RoutedEffect h afc p s t := by
  obtain ⟨u, hunit, honly, hpid, hlast, hcount, haf, hdup, hcc, hrole⟩ := routedUnit_spec h afc p s
  have hout : u.frm.out = s.frm.out := by rw [honly]; rfl
  have hsync : u.frm.syncErrors = s.frm.syncErrors := by rw [honly]; rfl
  have htei : u.frm.teiCount = s.frm.teiCount := by rw [honly]; rfl
  refine ⟨emit (recordOf h afc p s) u, ⟨(exec_routedForm h afc hp).trans (congrArg _ hunit), ?_⟩,
    ⟨?_, ?_, fun q hq => ⟨?_, ?_⟩, hcount, haf, hdup, hcc, hrole, hsync, htei⟩⟩
  · rw [emit_frm_out, hout]
  · rw [pidRead_emit, hpid, if_pos rfl]
  · rw [lastRead_emit, hlast]
    cases isDup (verdictBefore h afc p s) <;> simp
  · rw [pidRead_emit, hpid, if_neg hq]
  · rw [lastRead_emit, hlast, if_neg fun hc => hq hc.1]

/-- The state and the record of a run are decided by the state it starts from. -/
theorem RunsTo.unique {i : Instr} {s t t' : State} {r r' : Record} (h : RunsTo i s t r) (h' : RunsTo i s t' r') :
    t = t' ∧ r = r' := by
  obtain ⟨hx, hout⟩ := h
  obtain ⟨hx', hout'⟩ := h'
  obtain rfl : t = t' := Host.Outcome.next.inj (hx.symm.trans hx')
  exact ⟨rfl, by simpa using hout.symm.trans hout'⟩

/-- Whatever a routed form ran to is its record and its effect. -/
theorem RunsTo.routed {h : Hdr} {afc : BitVec 2} {s t : State} {p : List Byte} {r : Record} (hp : CoreAt s p)
    (hr : RunsTo (routedForm h afc) s t r) : r = recordOf h afc p s ∧ RoutedEffect h afc p s t := by
  obtain ⟨t', hr', he⟩ := routedForm_runsTo h afc hp
  obtain ⟨rfl, rfl⟩ := hr.unique hr'
  exact ⟨rfl, he⟩

/-- A counter that grows by a flag. -/
theorem counter_of_flag {c n : Word64} {b : Bool} (h : c = n + (if b then 1 else 0)) :
    (b = true → c = n + 1) ∧ (b = false → c = n) := by
  subst h
  cases b <;> simp

/-- Settles O48: the effect of a routed form on its PID, on the others and on the counters of the other kinds. -/
theorem routedPacketTouchesItsOwnPid : Obligations.RoutedPacketTouchesItsOwnPid := by
  unfold Obligations.RoutedPacketTouchesItsOwnPid
  intro s p h afc hp
  obtain ⟨t, hr, he⟩ := routedForm_runsTo h afc hp
  exact ⟨t, _, hr, by rw [he.record]; rfl, by rw [he.record]; rfl, he.pidCount, he.others, he.syncErrors, he.teiCount,
    rfl, rfl, rfl, rfl, rfl, rfl, rfl, rfl⟩

/-! ## The adaptation field -/

theorem some_coreByte {p : List Byte} {i : Nat} (h : i < p.length) : some (coreByte p i) = p[i]? := by
  simp [coreByte, h]

/-- Appending is a shift and an or, at any width. -/
theorem setWidth_append_eq_shiftLeft_or {m n : Nat} (k : Nat) (x : BitVec m) (y : BitVec n) :
    (x ++ y).setWidth k = x.setWidth k <<< n ||| y.setWidth k := by
  apply BitVec.eq_of_getLsbD_eq
  intro i hi
  simp only [BitVec.getLsbD_setWidth, BitVec.getLsbD_append, BitVec.getLsbD_or, BitVec.getLsbD_shiftLeft, hi]
  by_cases h : i < n
  · simp [h]
  · simp [h, BitVec.getLsbD_of_ge y i (by omega), (by omega : i - n < k)]

/-- R115: the five pieces of the base, by the shifts of the rule. -/
theorem append_eq_clockBase (a b c d e : Byte) :
    a ++ b ++ c ++ d ++ e.extractLsb' 7 1 = (a.setWidth 33 <<< 25) ||| (b.setWidth 33 <<< 17) ||| (c.setWidth 33 <<< 9) |||
      (d.setWidth 33 <<< 1) ||| (e.setWidth 33 >>> 7) := by
  have htop : (e.extractLsb' 7 1).setWidth 33 = e.setWidth 33 >>> 7 := by
    revert e
    decide
  rw [← BitVec.setWidth_eq (a ++ b ++ c ++ d ++ e.extractLsb' 7 1)]
  iterate 4 rw [setWidth_append_eq_shiftLeft_or]
  simp only [htop, BitVec.shiftLeft_or_distrib, ← BitVec.shiftLeft_add, Nat.reduceAdd]

/-- R115: the two pieces of the extension, by the shifts of the rule. -/
theorem append_eq_clockExt (e f : Byte) :
    e.extractLsb' 0 1 ++ f = ((e.setWidth 9 &&& 1) <<< 8) ||| f.setWidth 9 := by
  have hlow : (e.extractLsb' 0 1).setWidth 9 = e.setWidth 9 &&& 1 := by
    revert e
    decide
  rw [← BitVec.setWidth_eq (e.extractLsb' 0 1 ++ f), setWidth_append_eq_shiftLeft_or, hlow]

/-- R115: appending the pieces of the six bytes is what the shifts of the rule do. -/
theorem clockRef_eq_clockRefWord (p : List Byte) (o : Nat) :
    clockRef p o = clockRefWord (fun i => p.getD (o + i) 0) := by
  rw [clockRef, BitVec.append_assoc, append_eq_clockBase, append_eq_clockExt]
  rfl

/-- R190 to R193: no field, an overrun, or a field that fits. -/
theorem parseAf_cases (afc : BitVec 2) (p : List Byte) :
    (afc.getLsbD 1 = false ∧ parseAf afc p = afAbsent) ∨
    (afc.getLsbD 1 = true ∧ 183 < (coreByte p 4).toNat ∧
      parseAf afc p = { afAbsent with len := coreByte p 4, err := true }) ∨
    (afc.getLsbD 1 = true ∧ (coreByte p 4).toNat ≤ 183 ∧ (parseAf afc p).len = coreByte p 4 ∧
      (parseAf afc p).err = false ∧ (parseAf afc p).flags = afFlagsOf p) := by
  unfold parseAf
  cases afc.getLsbD 1 with
  | false => exact .inl ⟨rfl, rfl⟩
  | true =>
    by_cases hover : 183 < (coreByte p 4).toNat
    · exact .inr (.inl ⟨rfl, hover, if_pos hover⟩)
    · have hfits : afPresent p = { afPresent p with len := coreByte p 4, err := false, flags := afFlagsOf p } := by
        rw [afPresent, if_neg hover]
      exact .inr (.inr ⟨rfl, Nat.le_of_not_lt hover, congrArg AfInfo.len hfits, congrArg AfInfo.err hfits,
        congrArg AfInfo.flags hfits⟩)

theorem pcrFits_iff (len flags : Byte) : pcrFits len flags = true ↔ flags.getLsbD 4 = true ∧ 7 ≤ len.toNat := by
  simp [pcrFits]

theorem opcrFits_iff (len flags : Byte) :
    opcrFits len flags = true ↔ flags.getLsbD 3 = true ∧ (if flags.getLsbD 4 then 12 else 6) + 1 ≤ len.toNat := by
  simp [opcrFits, opcrOffset]

@[simp] theorem pcrFits_zero (len : Byte) : pcrFits len 0#8 = false := by simp [pcrFits]

@[simp] theorem opcrFits_zero (len : Byte) : opcrFits len 0#8 = false := by simp [opcrFits]

/-- R193 to R195: the rest of what is parsed, from the length and the flags. -/
theorem parseAf_of_len_flags (afc : BitVec 2) (p : List Byte) {af : AfInfo} (h : parseAf afc p = af) :
    af.di = af.flags.getLsbD 7 ∧ af.rai = af.flags.getLsbD 6 ∧
    af.pcrValid = pcrFits af.len af.flags ∧ af.pcr = (if af.pcrValid then clockRef p 6 else 0) ∧
    af.opcrValid = opcrFits af.len af.flags ∧
    af.opcr = (if af.opcrValid then clockRef p (opcrOffset af.flags) else 0) := by
  subst h
  unfold parseAf
  split
  · unfold afPresent
    split
    · simp [afAbsent]
    · exact ⟨rfl, rfl, rfl, rfl, rfl, rfl⟩
  · simp [afAbsent]

/-- R191, R192: the length byte of the core, and an overrun exactly when it exceeds 183. -/
theorem parseAf_len_err (afc : BitVec 2) {p : List Byte} (hlen : p.length = 188) :
    (afc.getLsbD 1 = false → (parseAf afc p).len = 0) ∧
    (afc.getLsbD 1 = true → some (parseAf afc p).len = p[4]?) ∧
    ((parseAf afc p).err = true ↔ afc.getLsbD 1 = true ∧ 183 < (parseAf afc p).len.toNat) := by
  rw [← some_coreByte (by omega : 4 < p.length)]
  rcases parseAf_cases afc p with ⟨hno, he⟩ | ⟨hyes, hover, he⟩ | ⟨hyes, hfits, hl, herr, -⟩
  · rw [he, hno]
    simp [afAbsent]
  · simp [hyes, hover, he]
  · simp [hyes, hl, herr, hfits]

/-- R193: the flags byte of the core, if there is one. -/
theorem parseAf_flags (afc : BitVec 2) {p : List Byte} (hlen : p.length = 188) :
    (afc.getLsbD 1 = true ∧ (parseAf afc p).err = false ∧ 1 ≤ (parseAf afc p).len.toNat →
      some (parseAf afc p).flags = p[5]?) ∧
    (¬ (afc.getLsbD 1 = true ∧ (parseAf afc p).err = false ∧ 1 ≤ (parseAf afc p).len.toNat) →
      (parseAf afc p).flags = 0) := by
  rw [← some_coreByte (by omega : 5 < p.length)]
  rcases parseAf_cases afc p with ⟨hno, he⟩ | ⟨hyes, -, he⟩ | ⟨hyes, -, hl, herr, hfl⟩
  · simp [he, afAbsent]
  · simp [he, afAbsent]
  · rw [hfl, hl, herr, afFlagsOf]
    exact ⟨fun ⟨_, _, hone⟩ => by rw [if_pos hone], fun hnone => if_neg fun hone => hnone ⟨hyes, rfl, hone⟩⟩

/-- Settles O49: the length, the overrun and its count, the flags, and what follows from length and flags. -/
theorem adaptationFieldIsParsed : Obligations.AdaptationFieldIsParsed := by
  unfold Obligations.AdaptationFieldIsParsed
  intro s p h afc hp
  obtain ⟨t, hr, he⟩ := routedForm_runsTo h afc hp
  obtain ⟨-, -, hlen, -⟩ := hp
  obtain ⟨habsent, hpresent, hover⟩ := parseAf_len_err afc hlen
  obtain ⟨hflags, hnoflags⟩ := parseAf_flags afc hlen
  obtain ⟨hdi, hrai, hpcrValid, hpcr, hopcrValid, hopcr⟩ := parseAf_of_len_flags afc p rfl
  rw [clockRef_eq_clockRefWord] at hpcr hopcr
  have hcnt : (pidRead t h.pid).afErrCnt = (pidRead s h.pid).afErrCnt + (if (parseAf afc p).err then 1 else 0) := by
    rw [he.record]; rfl
  obtain ⟨hcntUp, hcntSame⟩ := counter_of_flag hcnt
  obtain ⟨hallUp, hallSame⟩ := counter_of_flag he.afErrors
  exact ⟨t, _, hr, habsent, hpresent, hover, fun hyes => ⟨hallUp hyes, hcntUp hyes⟩,
    fun hno => ⟨hallSame hno, hcntSame hno⟩, hflags, hnoflags, hdi, hrai,
    (Bool.eq_iff_iff.1 hpcrValid).trans (pcrFits_iff _ _), hpcr,
    (Bool.eq_iff_iff.1 hopcrValid).trans (opcrFits_iff _ _), hopcr⟩

/-! ## The payload -/

/-- R204: payload located, neither a duplicate nor an error. -/
theorem payValidOf_iff (afc : BitVec 2) (af : AfInfo) (v : Verdict) : payValidOf (payLocated afc af) v = true ↔
    afc.getLsbD 0 = true ∧ af.err = false ∧ isDup v = false ∧ isCcErr v = false := by
  simp [payValidOf, payLocated, and_assoc]

/-- R196: a payload begins after the header, or after the adaptation field, which ends inside the core. -/
theorem payOffset_of_located {afc : BitVec 2} {p : List Byte} (h : afc.getLsbD 0 = true)
    (herr : (parseAf afc p).err = false) :
    (payOffset afc (parseAf afc p)).toNat = (if afc = 1 then 4 else 5 + (parseAf afc p).len.toNat) ∧
      (payOffset afc (parseAf afc p)).toNat ≤ 188 := by
  have hloc : payLocated afc (parseAf afc p) = true := by simp [payLocated, h, herr]
  rw [payOffset, if_pos hloc]
  rcases afc_cases afc with rfl | rfl | rfl | rfl
  · cases h
  · exact ⟨rfl, (by decide : 4 ≤ 188)⟩
  · cases h
  · rcases parseAf_cases 3 p with ⟨hno, -⟩ | ⟨-, -, he⟩ | ⟨-, hfits, hl, -⟩
    · cases hno
    · rw [he] at herr
      cases herr
    · rw [hl]
      have hlt : 5 + (coreByte p 4).toNat < 2 ^ 8 := by omega
      have hsum : (5 + coreByte p 4).toNat = 5 + (coreByte p 4).toNat := BitVec.toNat_add_of_lt hlt
      exact ⟨hsum, hsum.le.trans (by omega)⟩

/-- R196: the rest of the core. -/
theorem payLength_of_located {afc : BitVec 2} {p : List Byte} (h : afc.getLsbD 0 = true)
    (herr : (parseAf afc p).err = false) :
    (payLength afc (parseAf afc p)).toNat = 188 - (payOffset afc (parseAf afc p)).toNat := by
  have hloc : payLocated afc (parseAf afc p) = true := by simp [payLocated, h, herr]
  obtain ⟨-, hle⟩ := payOffset_of_located h herr
  rw [payLength, if_pos hloc]
  exact BitVec.toNat_sub_of_le hle

/-- R196: nothing is located. -/
theorem payOffset_payLength_of_not_located {afc : BitVec 2} {af : AfInfo}
    (h : ¬ (afc.getLsbD 0 = true ∧ af.err = false)) : payOffset afc af = 0 ∧ payLength afc af = 0 := by
  have hloc : ¬ payLocated afc af = true := by simpa [payLocated] using h
  exact ⟨if_neg hloc, if_neg hloc⟩

/-- R204: the payload handed on runs from pay_off to the end of the core. -/
theorem payload_of_handedOn {h : Hdr} {afc : BitVec 2} {p : List Byte} {s : State} (hv : handedOn h afc p s = true) :
    (recordOf h afc p s).payload = p.drop (payOffset afc (parseAf afc p)).toNat := if_pos hv

/-- R196: pay_off and pay_len make up the core. -/
theorem length_of_handedOn {h : Hdr} {afc : BitVec 2} {p : List Byte} {s : State} (hlen : p.length = 188)
    (hv : handedOn h afc p s = true) :
    (payOffset afc (parseAf afc p)).toNat + (payLength afc (parseAf afc p)).toNat = p.length := by
  obtain ⟨hpay, herr, -, -⟩ := (payValidOf_iff _ _ _).1 hv
  obtain ⟨-, hle⟩ := payOffset_of_located hpay herr
  rw [payLength_of_located hpay herr, hlen]
  omega

/-- Settles O50: where the payload lies when one is located, and that it is handed on exactly with pay_valid. -/
theorem payloadIsLocatedAndWithheld : Obligations.PayloadIsLocatedAndWithheld := by
  unfold Obligations.PayloadIsLocatedAndWithheld
  intro s p h afc hp
  obtain ⟨t, hr, -⟩ := routedForm_runsTo h afc hp
  obtain ⟨-, -, hlen, -⟩ := hp
  refine ⟨t, _, hr, fun ⟨hpay, herr⟩ => ?_, payOffset_payLength_of_not_located, payValidOf_iff _ _ _, fun hv => ?_,
    fun hv => if_neg (ne_true_of_eq_false hv)⟩
  · obtain ⟨hoff, hle⟩ := payOffset_of_located hpay herr
    exact ⟨hoff, payLength_of_located hpay herr, hle⟩
  · have hsum := length_of_handedOn hlen hv
    refine ⟨payload_of_handedOn hv, ?_⟩
    rw [payload_of_handedOn hv, List.length_drop, ← hsum, Nat.add_sub_cancel_left]
    rfl

/-! ## The continuity verdict -/

/-- The next counter, modulo 16. -/
theorem eq_add_one_iff_toNat (a b : BitVec 4) : a = b + 1 ↔ a.toNat = (b.toNat + 1) % 16 := by
  rw [← BitVec.toNat_inj, BitVec.toNat_add]
  rfl

theorem isDup_eq_false_of_isCcErr {v : Verdict} (h : isCcErr v = true) : isDup v = false := by
  cases v with
  | error => rfl
  | unchecked | inSequence | duplicate => cases h

/-- R198, R200 (2): a tolerated duplicate. -/
theorem isDup_continuity_iff (hasPayload di : Bool) (x : PidRec) (cc : BitVec 4) (p last : List Byte) :
    isDup (continuity hasPayload di x cc p last) = true ↔ (hasPayload = true ∧ di = false ∧ x.hasCc = true) ∧
      cc = x.lastCc ∧ p = last ∧ x.dupSeen = false := by
  rcases continuity_cases hasPayload di x cc p last with
    ⟨hno, hv⟩ | ⟨hyes, ⟨hnext, hv⟩ | ⟨-, hrep, hv⟩ | ⟨-, hother, hv⟩⟩ <;> rw [hv]
  · exact ⟨nofun, fun h => absurd h.1 hno⟩
  · exact ⟨nofun, fun ⟨_, hcc, _⟩ => absurd (hcc.symm.trans hnext) (by simp)⟩
  · exact ⟨fun _ => ⟨hyes, hrep⟩, fun _ => rfl⟩
  · exact ⟨nofun, fun h => absurd h.2 hother⟩

/-- R198, R200 (3): a continuity error. -/
theorem isCcErr_continuity_iff (hasPayload di : Bool) (x : PidRec) (cc : BitVec 4) (p last : List Byte) :
    isCcErr (continuity hasPayload di x cc p last) = true ↔ (hasPayload = true ∧ di = false ∧ x.hasCc = true) ∧
      cc ≠ x.lastCc + 1 ∧ ¬ (cc = x.lastCc ∧ p = last ∧ x.dupSeen = false) := by
  rcases continuity_cases hasPayload di x cc p last with
    ⟨hno, hv⟩ | ⟨hyes, ⟨hnext, hv⟩ | ⟨-, hrep, hv⟩ | ⟨hne, hother, hv⟩⟩ <;> rw [hv]
  · exact ⟨nofun, fun h => absurd h.1 hno⟩
  · exact ⟨nofun, fun ⟨_, hne, _⟩ => absurd hnext hne⟩
  · exact ⟨nofun, fun ⟨_, _, hother⟩ => absurd hrep hother⟩
  · exact ⟨fun _ => ⟨hyes, hne, hother⟩, fun _ => rfl⟩

/-- Settles O51: when a packet is a duplicate and when it is an error; the next counter is neither. -/
theorem continuityVerdictFollowsTheCases : Obligations.ContinuityVerdictFollowsTheCases := by
  unfold Obligations.ContinuityVerdictFollowsTheCases
  intro s p h afc hp
  obtain ⟨t, hr, -⟩ := routedForm_runsTo h afc hp
  have hdup := isDup_continuity_iff (afc.getLsbD 0) (parseAf afc p).di (pidRead s h.pid) h.cc p (lastRead s h.pid)
  have herr := isCcErr_continuity_iff (afc.getLsbD 0) (parseAf afc p).di (pidRead s h.pid) h.cc p (lastRead s h.pid)
  simp only [← eq_add_one_iff_toNat, ne_eq]
  refine ⟨t, _, hr, fun hno => ⟨?_, ?_⟩, fun hyes => ⟨fun hnext => ⟨?_, ?_⟩, fun hrep => ⟨hdup.2 ⟨hyes, hrep⟩, ?_⟩,
    fun ⟨hne, hother⟩ => ⟨?_, herr.2 ⟨hyes, hne, hother⟩⟩⟩⟩
  all_goals refine eq_false_of_ne_true fun hv => ?_
  · exact hno (hdup.1 hv).1
  · exact hno (herr.1 hv).1
  · obtain ⟨-, hcc, -⟩ := hdup.1 hv
    exact absurd (hcc.symm.trans hnext) (by simp)
  · obtain ⟨-, hne, -⟩ := herr.1 hv
    exact hne hnext
  · obtain ⟨-, -, hother⟩ := herr.1 hv
    exact hother hrep
  · exact hother (hdup.1 hv).2

/-- R201: what a tolerated duplicate leaves. -/
theorem RoutedEffect.of_isDup {h : Hdr} {afc : BitVec 2} {p : List Byte} {s t : State} (he : RoutedEffect h afc p s t)
    (hv : isDup (verdictBefore h afc p s) = true) :
    (pidRead t h.pid).dupSeen = true ∧ (pidRead t h.pid).lastCc = (pidRead s h.pid).lastCc ∧
      (pidRead t h.pid).hasCc = (pidRead s h.pid).hasCc ∧ lastRead t h.pid = lastRead s h.pid := by
  rw [he.record, he.store, if_pos hv]
  exact ⟨hv, if_pos hv, if_pos hv, rfl⟩

/-- R203: every other packet becomes the previous one. -/
theorem RoutedEffect.of_not_isDup {h : Hdr} {afc : BitVec 2} {p : List Byte} {s t : State}
    (he : RoutedEffect h afc p s t) (hv : isDup (verdictBefore h afc p s) = false) :
    (pidRead t h.pid).dupSeen = false ∧ (pidRead t h.pid).lastCc = h.cc ∧ (pidRead t h.pid).hasCc = true ∧
      lastRead t h.pid = p := by
  have hv' := ne_true_of_eq_false hv
  rw [he.record, he.store, if_neg hv']
  exact ⟨hv, if_neg hv', if_neg hv', rfl⟩

/-- Settles O52: what the verdict leaves as expectation, and the counts it adds. -/
theorem verdictUpdatesExpectationAndCounts : Obligations.VerdictUpdatesExpectationAndCounts := by
  unfold Obligations.VerdictUpdatesExpectationAndCounts
  intro s p h afc hp
  obtain ⟨t, hr, he⟩ := routedForm_runsTo h afc hp
  have hdupCnt : (pidRead t h.pid).dupCnt =
      (pidRead s h.pid).dupCnt + (if isDup (verdictBefore h afc p s) then 1 else 0) := by rw [he.record]; rfl
  have herrCnt : (pidRead t h.pid).ccErrCnt =
      (pidRead s h.pid).ccErrCnt + (if isCcErr (verdictBefore h afc p s) then 1 else 0) := by rw [he.record]; rfl
  obtain ⟨hdupCntUp, hdupCntSame⟩ := counter_of_flag hdupCnt
  obtain ⟨hdupUp, hdupSame⟩ := counter_of_flag he.dupCount
  obtain ⟨herrCntUp, herrCntSame⟩ := counter_of_flag herrCnt
  obtain ⟨herrUp, herrSame⟩ := counter_of_flag he.ccErrors
  exact ⟨t, _, hr, fun hv => ⟨hdupCntUp hv, hdupUp hv, he.of_isDup hv⟩,
    fun hv => ⟨hdupCntSame hv, hdupSame hv, he.of_not_isDup hv⟩, fun hv => ⟨herrCntUp hv, herrUp hv⟩,
    fun hv => ⟨herrCntSame hv, herrSame hv⟩⟩

/-- Settles O54: the duplicate sets dup_seen, which makes the next copy an error, which clears it and remembers the copy. -/
theorem onlyOneRepeatIsTolerated : Obligations.OnlyOneRepeatIsTolerated := by
  unfold Obligations.OnlyOneRepeatIsTolerated
  intro s t u v p h afc r₁ r₂ r₃ hs ht hu hr₁ hr₂ hr₃ hdup
  obtain ⟨rfl, he₁⟩ := hr₁.routed hs
  obtain ⟨rfl, he₂⟩ := hr₂.routed ht
  obtain ⟨rfl, -⟩ := hr₃.routed hu
  obtain ⟨⟨hpay, hdi, hcc⟩, hsame, -⟩ := (isDup_continuity_iff _ _ _ _ _ _).1 hdup
  obtain ⟨hseen, hlast, hkept, -⟩ := he₁.of_isDup hdup
  have herr₂ : isCcErr (verdictBefore h afc p t) = true := by
    refine (isCcErr_continuity_iff _ _ _ _ _ _).2 ⟨⟨hpay, hdi, hkept.trans hcc⟩, ?_, fun ⟨_, _, hclear⟩ => ?_⟩
    · rw [hlast, hsame]
      simp
    · rw [hseen] at hclear
      cases hclear
  have hdup₂ := isDup_eq_false_of_isCcErr herr₂
  obtain ⟨hcleared, hprev, hheld, hstore⟩ := he₂.of_not_isDup hdup₂
  have hdup₃ : isDup (verdictBefore h afc p u) = true :=
    (isDup_continuity_iff _ _ _ _ _ _).2 ⟨⟨hpay, hdi, hheld⟩, hprev.symm, hstore.symm, hcleared⟩
  exact ⟨hdup₂, herr₂, hdup₃, eq_false_of_ne_true fun herr₃ =>
    absurd hdup₃ (ne_true_of_eq_false (isDup_eq_false_of_isCcErr herr₃))⟩

/-! ## The role -/

/-- The first three bytes of a list, one by one. -/
theorem take_three_eq_iff (q : List Byte) : q.take 3 = [0, 0, 1] ↔
    3 ≤ q.length ∧ coreByte q 0 = 0 ∧ coreByte q 1 = 0 ∧ coreByte q 2 = 1 := by
  match q with
  | [] | [_] | [_, _] => simp
  | a :: b :: c :: _ => simp [coreByte]

theorem coreByte_drop (p : List Byte) (n i : Nat) : coreByte (p.drop n) i = coreByte p (n + i) := by
  simp [coreByte]

/-- R206: `classify` looks for 00 00 01 at the beginning of the payload. -/
theorem classify_eq {p : List Byte} {off len : BitVec 8} (h : off.toNat + len.toNat = p.length) :
    classify p off len = if (p.drop off.toNat).take 3 = [0, 0, 1] then .pes else .psi := by
  have hlen : (p.drop off.toNat).length = len.toNat := by rw [List.length_drop]; omega
  simp only [classify, take_three_eq_iff, coreByte_drop, hlen, Nat.add_zero]

/-- R206: the class of a packet whose payload is handed on. -/
theorem classOf_of_handedOn {h : Hdr} {afc : BitVec 2} {p : List Byte} {s : State} (hlen : p.length = 188)
    (hv : handedOn h afc p s = true) :
    classOf afc p = if (recordOf h afc p s).payload.take 3 = [0, 0, 1] then .pes else .psi := by
  rw [payload_of_handedOn hv]
  exact classify_eq (length_of_handedOn hlen hv)

/-- R205: a packet that is not eligible. -/
theorem role_of_not_eligible {h : Hdr} {afc : BitVec 2} {p : List Byte} {s : State}
    (hn : ¬ (h.pusi = true ∧ handedOn h afc p s = true)) :
    (recordAfter h afc p s).role = (pidRead s h.pid).role ∧ mismatchBefore h afc p s = false := by
  have hn' : (h.pusi && handedOn h afc p s) = false := by simpa using hn
  simp [recordAfter, mismatchBefore, roleMismatchOf, hn']

/-- R206, R207: an eligible packet. -/
theorem role_of_eligible {h : Hdr} {afc : BitVec 2} {p : List Byte} {s : State}
    (hy : h.pusi = true ∧ handedOn h afc p s = true) :
    ((pidRead s h.pid).role = .unclassified →
      (recordAfter h afc p s).role = classOf afc p ∧ mismatchBefore h afc p s = false) ∧
    ((pidRead s h.pid).role ≠ .unclassified → (recordAfter h afc p s).role = (pidRead s h.pid).role ∧
      (mismatchBefore h afc p s = true ↔ (pidRead s h.pid).role ≠ classOf afc p)) := by
  obtain ⟨hpusi, hon⟩ := hy
  constructor
  · intro hun
    simp [recordAfter, mismatchBefore, roleMismatchOf, hpusi, hon, hun]
  · intro hset
    simp [recordAfter, mismatchBefore, roleMismatchOf, hpusi, hon, hset]

/-- Settles O53: the role by eligibility, and the count of a mismatch. -/
theorem roleIsSetOnceAndMismatchCounted : Obligations.RoleIsSetOnceAndMismatchCounted := by
  unfold Obligations.RoleIsSetOnceAndMismatchCounted
  intro s p h afc hp
  obtain ⟨t, hr, he⟩ := routedForm_runsTo h afc hp
  obtain ⟨-, -, hlen, -⟩ := hp
  have hcnt : (pidRead t h.pid).roleErrCnt =
      (pidRead s h.pid).roleErrCnt + (if mismatchBefore h afc p s then 1 else 0) := by rw [he.record]; rfl
  obtain ⟨hcntUp, hcntSame⟩ := counter_of_flag hcnt
  obtain ⟨hallUp, hallSame⟩ := counter_of_flag he.roleErrors
  refine ⟨t, recordOf h afc p s, hr, by rw [he.record]; rfl, fun hn => ?_, fun hy => ?_,
    fun hm => ⟨hcntUp hm, hallUp hm⟩, fun hm => ⟨hcntSame hm, hallSame hm⟩⟩
  · rw [he.record]
    exact role_of_not_eligible hn
  · rw [he.record, ← classOf_of_handedOn hlen hy.2]
    exact role_of_eligible hy

end Sys2Proof.Machine

/-! PROOFS. The CRC unit. First the shift register: its shifts, its steps and its folds, and when they can be undone; then
the three commands; then what a list of moves leaves in the register. -/

namespace Sys2Proof.Machine

open Sys2Proof

/-! ## The shift register -/

/-- R231: the shifts are iterates of one shift. -/
theorem crcShifts_eq_iterate (poly : Word32) (n : Nat) (c : Word32) : crcShifts poly n c = (crcShift poly)^[n] c := by
  induction n generalizing c with
  | zero => rfl
  | succ n ih => exact ih (crcShift poly c)

/-- R231: the bytes are taken from the left. -/
theorem crcFold_eq_foldl (poly c : Word32) (m : List Byte) : crcFold poly c m = m.foldl (crcStep poly) c := by
  induction m generalizing c with
  | nil => rfl
  | cons b m ih => exact ih (crcStep poly c b)

/-- Settles O6: eight shifts are eight iterates, and the fold is the list's own. -/
theorem crcStepIsBitSerial : Obligations.CrcStepIsBitSerial := by
  unfold Obligations.CrcStepIsBitSerial
  exact ⟨fun poly c b => crcShifts_eq_iterate poly 8 _, crcFold_eq_foldl, fun _ _ => rfl⟩

/-- While the top bits are 0 nothing is fed back: n shifts with the top n bits clear are one shift by n. -/
theorem crcShifts_of_top_clear (poly : Word32) {n : Nat} {c : Word32} (h : ∀ i, 32 ≤ i + n → c.getLsbD i = false) :
    crcShifts poly n c = c <<< n := by
  induction n generalizing c with
  | zero => rw [crcShifts, BitVec.shiftLeft_zero]
  | succ n ih =>
    have htop : crcShift poly c = c <<< 1 := by
      rw [crcShift, h 31 (by omega)]
      rfl
    have hrest : ∀ i, 32 ≤ i + n → (c <<< 1).getLsbD i = false := fun i hi => by
      rw [BitVec.getLsbD_shiftLeft]
      by_cases hi0 : i < 1
      · simp [hi0]
      · rw [h (i - 1) (by omega), Bool.and_false]
    rw [crcShifts, htop, ih hrest, ← BitVec.shiftLeft_add, Nat.add_comm]

/-- A step with the register's own top byte cancels it and shifts the other three bytes up. -/
theorem crcStep_topByte (poly c : Word32) : crcStep poly c (c.extractLsb' 24 8) = c <<< 8 := by
  have hbit : ∀ i, (c ^^^ ((c.extractLsb' 24 8).setWidth 32 <<< 24)).getLsbD i = (decide (i < 24) && c.getLsbD i) := by
    intro i
    by_cases hi : i < 24
    · simp [hi]
    · by_cases hw : i < 32
      · have hb : i - 24 < 8 := by omega
        have hsum : 24 + (i - 24) = i := by omega
        simp [hi, hw, hb, hsum]
      · simp [hi, hw, BitVec.getLsbD_of_ge c i (by omega)]
  rw [crcStep, crcShifts_of_top_clear poly fun i hi => by rw [hbit, decide_eq_false (by omega), Bool.false_and]]
  apply BitVec.eq_of_getLsbD_eq
  intro i hi
  rw [BitVec.getLsbD_shiftLeft, BitVec.getLsbD_shiftLeft, hbit, decide_eq_true (by omega : i - 8 < 24), Bool.true_and]

/-- What is left of `v` after k bits were shifted out has the next byte of `v` on top. -/
theorem crcStep_nextByte (poly v : Word32) {k : Nat} (hk : k ≤ 24) :
    crcStep poly (v <<< k) (v.extractLsb' (24 - k) 8) = v <<< (k + 8) := by
  have hbyte : v.extractLsb' (24 - k) 8 = (v <<< k).extractLsb' 24 8 := by
    apply BitVec.eq_of_getLsbD_eq
    intro i hi
    have hlt : 24 + i < 32 := by omega
    have hge : ¬ 24 + i < k := by omega
    have hsub : 24 + i - k = 24 - k + i := by omega
    simp only [BitVec.getLsbD_extractLsb', BitVec.getLsbD_shiftLeft, hi, hlt, hge, hsub, decide_true, decide_false,
      Bool.not_false, Bool.true_and]
  rw [hbyte, crcStep_topByte, BitVec.shiftLeft_add]

/-- R235: a register fed its own four bytes, most significant first, is 0. -/
theorem crcFold_bigEndian_self (poly v : Word32) : crcFold poly v (bigEndian v) = 0 := by
  have h₀ : crcStep poly v (v.extractLsb' 24 8) = v <<< 8 := crcStep_topByte poly v
  have h₁ : crcStep poly (v <<< 8) (v.extractLsb' 16 8) = v <<< 16 := crcStep_nextByte poly v (by decide)
  have h₂ : crcStep poly (v <<< 16) (v.extractLsb' 8 8) = v <<< 24 := crcStep_nextByte poly v (by decide)
  have h₃ : crcStep poly (v <<< 24) (v.extractLsb' 0 8) = v <<< 32 := crcStep_nextByte poly v (by decide)
  simp only [bigEndian, crcFold, h₀, h₁, h₂, h₃]
  exact BitVec.shiftLeft_eq_zero (by decide)

/-- The code of a span in two parts goes on from the code of the first. -/
theorem crcOf_append (poly : Word32) (a b : List Byte) : crcOf poly (a ++ b) = crcFold poly (crcOf poly a) b :=
  crcFold_append poly crcInitValue a b

/-- Settles O9: the register holds the code when its four bytes arrive. -/
theorem crcOfSpanWithItsCodeIsZero : Obligations.CrcOfSpanWithItsCodeIsZero := by
  unfold Obligations.CrcOfSpanWithItsCodeIsZero
  intro poly m
  rw [crcOf_append, crcFold_bigEndian_self]

/-! ## Undoing a step -/

section
variable {poly : Word32} (hp : poly.getLsbD 0 = true)
include hp

/-- The bit shifted out comes back as bit 0. -/
theorem crcShift_getLsbD_zero (c : Word32) : (crcShift poly c).getLsbD 0 = c.getLsbD 31 := by
  unfold crcShift
  split
  · next h => rw [h, BitVec.getLsbD_xor, hp, BitVec.getLsbD_shiftLeft]; rfl
  · next h => rw [eq_false_of_ne_true h, BitVec.getLsbD_shiftLeft]; rfl

/-- A shift can be undone: bit 0 says whether the polynomial was added, and which bit was shifted out. -/
theorem crcShift_injective : Function.Injective (crcShift poly) := by
  intro c d h
  have htop : c.getLsbD 31 = d.getLsbD 31 := by
    rw [← crcShift_getLsbD_zero hp c, ← crcShift_getLsbD_zero hp d, h]
  have hshift : c <<< 1 = d <<< 1 := by
    unfold crcShift at h
    rw [htop] at h
    split at h
    · exact (BitVec.xor_left_inj poly).1 h
    · exact h
  apply BitVec.eq_of_getLsbD_eq
  intro i hi
  by_cases hi' : i = 31
  · rw [hi', htop]
  · have hbit := congrArg (·.getLsbD (i + 1)) hshift
    simpa only [BitVec.getLsbD_shiftLeft, show i + 1 < 32 by omega, show ¬ i + 1 < 1 by omega, Nat.add_sub_cancel,
      decide_true, decide_false, Bool.not_false, Bool.true_and] using hbit

theorem crcShifts_injective (n : Nat) : Function.Injective (crcShifts poly n) := by
  rw [show crcShifts poly n = (crcShift poly)^[n] from funext (crcShifts_eq_iterate poly n)]
  exact (crcShift_injective hp).iterate n

/-- R237: a step is an injection of the register, so a bijection. -/
theorem crcStep_injective (b : Byte) : Function.Injective fun c => crcStep poly c b :=
  fun _ _ h => (BitVec.xor_left_inj _).1 (crcShifts_injective hp 8 h)

theorem crcFold_injective (m : List Byte) : Function.Injective fun c => crcFold poly c m := by
  induction m with
  | nil => exact Function.injective_id
  | cons b m ih => exact ih.comp (crcStep_injective hp b)

/-- Two bytes give two registers. -/
theorem crcStep_injective_byte (c : Word32) : Function.Injective (crcStep poly c) := by
  intro a b h
  have hword : (a.setWidth 32 <<< 24 : Word32) = b.setWidth 32 <<< 24 :=
    (BitVec.xor_right_inj c).1 (crcShifts_injective hp 8 h)
  apply BitVec.eq_of_getLsbD_eq
  intro i hi
  have hbit := congrArg (·.getLsbD (24 + i)) hword
  simpa [show 24 + i < 32 by omega, show i < 32 by omega] using hbit

/-- R238: one changed byte changes the code. -/
theorem crcOf_ne_of_byte_ne {b b' : Byte} (pre post : List Byte) (hb : b ≠ b') :
    crcOf poly (pre ++ b :: post) ≠ crcOf poly (pre ++ b' :: post) := by
  rw [crcOf_append, crcOf_append]
  exact fun h => hb (crcStep_injective_byte hp _ (crcFold_injective hp post h))

/-- R237: only a register equal to `v` is 0 after the bytes of `v`. -/
theorem crcFold_bigEndian_eq_zero_iff (c v : Word32) : crcFold poly c (bigEndian v) = 0 ↔ v = c := by
  rw [← crcFold_bigEndian_self poly v]
  exact (crcFold_injective hp (bigEndian v)).eq_iff.trans eq_comm

end

/-- Settles O11: the register after m is compared with v. -/
theorem crcAcceptanceIsComparison : Obligations.CrcAcceptanceIsComparison := by
  unfold Obligations.CrcAcceptanceIsComparison
  intro poly v m hp
  rw [crcOf_append, crcFold_bigEndian_eq_zero_iff hp]

/-! ## The commands -/

/-- CRC.CHECK, in both cases (R236). -/
theorem exec_crcCheck (s : State) :
    (s.crc.reg = 0 ∧ exec .crcCheck s = .next (respondOk opcCrcCheck s.crc.reg { s with crc.matched := true })) ∨
    (s.crc.reg ≠ 0 ∧ exec .crcCheck s = .next (respondOk opcCrcCheck s.crc.reg
      { s with crc.matched := false, crc.errors := s.crc.errors + 1 })) := by
  by_cases h : s.crc.reg = 0
  · exact .inl ⟨h, by simp only [exec, execCrcCheck, h, ↓reduceIte]⟩
  · exact .inr ⟨h, by simp only [exec, execCrcCheck, h, ↓reduceIte, raiseEvent]⟩

/-- R93: a state that answers with another CRC unit differs in nothing else. -/
theorem onlyCrc_respondOk (s : State) (opc : BitVec 8) (v : Word32) (u : CrcUnit) :
    OnlyCrc s (respondOk opc v { s with crc := u }) :=
  ⟨rfl, rfl, rfl, ⟨rfl, rfl, rfl, rfl⟩, fun _ => rfl, fun _ => rfl, rfl⟩

/-- Settles O7: the three commands, CRC.CHECK in its two cases. -/
theorem crcCommandsComplete : Obligations.CrcCommandsComplete := by
  unfold Obligations.CrcCommandsComplete
  intro s
  refine ⟨⟨_, rfl, rfl, respIs_respond _ _ _ _, onlyCrc_respondOk _ _ _ _⟩,
    fun b => ⟨_, rfl, rfl, respIs_respond _ _ _ _, onlyCrc_respondOk _ _ _ _⟩, ?_⟩
  rcases exec_crcCheck s with ⟨h, hx⟩ | ⟨h, hx⟩
  · exact ⟨_, hx, rfl, fun _ => ⟨rfl, rfl⟩, fun hne => absurd h hne, respIs_respond _ _ _ _, onlyCrc_respondOk _ _ _ _⟩
  · exact ⟨_, hx, rfl, fun he => absurd he h, fun _ => ⟨rfl, rfl⟩, respIs_respond _ _ _ _, onlyCrc_respondOk _ _ _ _⟩

/-- Settles O10: the changed span has another code than 0, and CRC.CHECK takes its second case. -/
theorem crcDetectsEverySingleByteChange : Obligations.CrcDetectsEverySingleByteChange := by
  unfold Obligations.CrcDetectsEverySingleByteChange
  refine ⟨by decide, fun poly pre post b b' hp hb hzero => ?_⟩
  have hne : crcOf poly (pre ++ b' :: post) ≠ 0 := fun h => crcOf_ne_of_byte_ne hp pre post hb (hzero.trans h.symm)
  refine ⟨hne, fun s hs => ?_⟩
  rcases exec_crcCheck s with ⟨h, -⟩ | ⟨-, hx⟩
  · exact absurd (hs.symm.trans h) hne
  · exact ⟨_, hx, rfl, rfl⟩

/-! ## A span under interleaving -/

/-- R4: no move changes the static parameters. -/
theorem Move.keeps_params {o : Option Turn} {s s' : State} (h : Move o s s') : s'.params = s.params := by
  cases h with
  | stay | read | reset | illegal | writePidSel | finish | abort | sink | present => rfl
  | writeCfg v => exact writeCfg_params v s
  | writeBcStatus v => exact writeBcStatus_params v s
  | source n => exact sourceStep_params n s
  | probe => rw [probeStep_only_frm]
  | packet i t hf hp hi h => rw [exec_form_only_frm hi h]
  | command i t hi ho h =>
    obtain ⟨_, _, _, u, hu, -, rfl⟩ := exec_cw32_effect hi h
    cases hu <;> rfl

@[simp] theorem writeCfg_crc (v : Word64) (s : State) : (writeCfg v s).crc = s.crc := by
  unfold writeCfg; split <;> rfl
@[simp] theorem writeBcStatus_crc (v : Word64) (s : State) : (writeBcStatus v s).crc = s.crc := by
  unfold writeBcStatus; split <;> rfl
@[simp] theorem sourceStep_crc (n : Nat) (s : State) : (sourceStep n s).crc = s.crc := by
  unfold sourceStep; split <;> rfl

/-- R93: a move that is no command and no reset leaves the CRC unit alone. -/
theorem Move.keeps_crc {t : Turn} {s s' : State} (h : Move (some t) s s') (hc : turnCmd t = none)
    (hr : t ≠ .host .reset) : s'.crc = s.crc := by
  cases h with
  | stay | read | illegal | writePidSel | finish | abort | sink | present => rfl
  | writeCfg v => exact writeCfg_crc v s
  | writeBcStatus v => exact writeBcStatus_crc v s
  | source n => exact sourceStep_crc n s
  | probe => rw [probeStep_only_frm]
  | packet i t hf hp hi h => rw [exec_form_only_frm hi h]
  | reset ho => exact absurd (Option.some.inj ho) hr
  | command i t hi ho h => exact nomatch hc.symm.trans ho

/-- R93: a command of another unit leaves the CRC unit alone, unless it resets the block. -/
theorem exec_cw32_keeps_crc {i : Instr} {s t : State} (hi : i.format = .cw32) (hcrc : isCrcCmd i = false)
    (hr : i ≠ .sysReset) (h : exec i s = .next t) : t.crc = s.crc := by
  rcases cw32_cases i hi with rfl | rfl | rfl | hc | hb
  · exact absurd rfl hr
  · rcases exec_frmStart s with ⟨-, h'⟩ | ⟨-, h'⟩ <;> cases Host.Outcome.next.inj (h.symm.trans h') <;> rfl
  · rcases exec_frmAbort s with ⟨-, h'⟩ | ⟨-, h'⟩ <;> cases Host.Outcome.next.inj (h.symm.trans h') <;> rfl
  · exact absurd hc (ne_true_of_eq_false hcrc)
  · obtain ⟨_, _, _, _, -, -, rfl⟩ := exec_bc_effect hb h
    rfl

/-- R39: the turn of a command runs it. -/
theorem takeTurn_of_turnCmd {t : Turn} {i : Instr} (h : turnCmd t = some i) (s : State) :
    i.format = .cw32 ∧ takeTurn t s = exec i s := by
  unfold turnCmd at h
  split at h
  · next a v =>
    split_ifs at h with hslot
    cases hd : decodeCmd (v.extractLsb' 0 32) with
    | error e => rw [hd] at h; cases h
    | ok j =>
      rw [hd] at h
      cases h
      refine ⟨decodeCmd_format hd, ?_⟩
      simp only [takeTurn, hostAccess, hostWrite, hslot, runCommand, hd]
  all_goals cases h

theorem fedBytes_cons (t : Turn) (l : List Turn) : fedBytes (t :: l) = fedBytes [t] ++ fedBytes l :=
  List.filterMap_append (l := [t])

theorem fedBytes_crcByte {t : Turn} {b : Byte} (h : turnCmd t = some (.crcByte b)) : fedBytes [t] = [b] := by
  simp [fedBytes, h]

theorem fedBytes_none {t : Turn} (h : turnCmd t = none) : fedBytes [t] = [] := by
  simp [fedBytes, h]

theorem fedBytes_not_crcCmd {t : Turn} {i : Instr} (h : turnCmd t = some i) (hi : isCrcCmd i = false) :
    fedBytes [t] = [] := by
  cases i with
  | crcInit | crcByte | crcCheck => cases hi
  | _ => simp [fedBytes, h]

/-- R233, R234: a move inside a span folds the bytes it feeds into the register. -/
theorem takeTurn_crcReg {t : Turn} {s s' : State} (hk : keepsSpan t) (h : takeTurn t s = .next s') :
    s'.crc.reg = crcFold s.params.crcPoly s.crc.reg (fedBytes [t]) := by
  obtain ⟨hreset, hinit, hcheck, hsys⟩ := hk
  cases hc : turnCmd t with
  | none => rw [fedBytes_none hc, (takeTurn_move h).keeps_crc hc hreset, crcFold]
  | some i =>
    obtain ⟨hi, ht⟩ := takeTurn_of_turnCmd hc s
    have hx : exec i s = .next s' := ht.symm.trans h
    cases hcrc : isCrcCmd i with
    | false =>
      have hr : i ≠ .sysReset := fun he => hsys (he ▸ hc)
      rw [fedBytes_not_crcCmd hc hcrc, exec_cw32_keeps_crc hi hcrc hr hx, crcFold]
    | true =>
      cases i with
      | crcInit => exact absurd hc hinit
      | crcCheck => exact absurd hc hcheck
      | crcByte b =>
        cases Host.Outcome.next.inj hx
        rw [fedBytes_crcByte hc]
        rfl
      | _ => cases hcrc

/-- R234: a list of such moves folds the bytes it feeds, in order. -/
theorem runTurns_crcReg {l : List Turn} {s s' : State} (hk : ∀ t ∈ l, keepsSpan t) (h : runTurns l s = .next s') :
    s'.crc.reg = crcFold s.params.crcPoly s.crc.reg (fedBytes l) := by
  induction l generalizing s with
  | nil => cases Host.Outcome.next.inj h; rfl
  | cons t l ih =>
    obtain ⟨ht, hl⟩ := List.forall_mem_cons.1 hk
    rw [runTurns] at h
    cases hu : takeTurn t s with
    | next u =>
      rw [hu] at h
      rw [ih hl h, (takeTurn_move hu).keeps_params, takeTurn_crcReg ht hu, fedBytes_cons t l, crcFold_append]
    | fault f => rw [hu] at h; cases h
    | refused r => rw [hu] at h; cases h

/-- Settles O8: CRC.INIT leaves the initial value, and the moves fold the bytes they feed into it. -/
theorem crcRegisterHoldsCodeOfFedSpan : Obligations.CrcRegisterHoldsCodeOfFedSpan := by
  unfold Obligations.CrcRegisterHoldsCodeOfFedSpan
  intro s s₁ s₂ l hk hinit hrun
  cases Host.Outcome.next.inj hinit
  exact runTurns_crcReg hk hrun

end Sys2Proof.Machine

/-! PROOFS. The bit cursor. First, said once: the bits of a value, what each command answers case by case, and what its
answer leaves; then the code of BC.RDUE; then that no byte above BUF_LEN is read. -/

namespace Sys2Proof.Machine

open Sys2Proof

/-! ## Bits and values -/

/-- R251: bit i of BUF, by shifting its byte. -/
theorem bitAt_toNat (s : State) (i : Nat) :
    (bitAt s i).toNat = ((bufRead s (i / 8)).toNat >>> (7 - i % 8)) % 2 := by
  rw [bitAt, ← BitVec.testBit_toNat, Nat.toNat_testBit, Nat.shiftRight_eq_div_pow]

/-- R251: the value of a bit string is the sum of its weighted bits. -/
theorem bitsVal_eq_sum (s : State) (a n : Nat) :
    bitsVal s a n = ((List.range n).map fun j => (bitAt s (a + j)).toNat * 2 ^ (n - 1 - j)).sum := by
  induction n with
  | zero => rfl
  | succ n ih =>
    have hdouble : ∀ j ∈ List.range n, (bitAt s (a + j)).toNat * 2 ^ (n + 1 - 1 - j) =
        2 * ((bitAt s (a + j)).toNat * 2 ^ (n - 1 - j)) := fun j hj => by
      have hlt := List.mem_range.1 hj
      rw [show n + 1 - 1 - j = n - 1 - j + 1 by omega, Nat.pow_succ]
      ring
    rw [bitsVal, ih, List.range_succ, List.map_append, List.sum_append, List.map_congr_left hdouble,
      List.sum_map_mul_left]
    simp

/-- Settles O14: a bit is a shifted byte's last bit, and each further bit doubles the value before it. -/
theorem bitsAreMostSignificantFirst : Obligations.BitsAreMostSignificantFirst := by
  unfold Obligations.BitsAreMostSignificantFirst
  exact fun s => ⟨bitAt_toNat s, bitsVal_eq_sum s⟩

/-- R251: the first bit of a bit string is the top bit of its value. -/
theorem testBit_bitsVal (s : State) (a : Nat) {n i : Nat} (h : i < n) :
    (bitsVal s a n).testBit i = bitAt s (a + (n - 1 - i)) := by
  induction n generalizing i with
  | zero => omega
  | succ n ih =>
    have hb := (bitAt s (a + n)).toNat_lt
    cases i with
    | zero =>
      rw [bitsVal, Nat.testBit_zero, Nat.mul_add_mod]
      cases hbit : bitAt s (a + n) <;> simp [hbit]
    | succ i =>
      rw [bitsVal, Nat.testBit_succ, show (2 * bitsVal s a n + (bitAt s (a + n)).toNat) / 2 = bitsVal s a n by omega,
        ih (by omega)]
      congr 1
      omega

theorem bitAt_eq_testBit (s : State) (a : Nat) {n j : Nat} (h : j < n) :
    bitAt s (a + j) = (bitsVal s a n).testBit (n - 1 - j) := by
  rw [testBit_bitsVal s a (by omega), show n - 1 - (n - 1 - j) = j by omega]

/-- R251: the eight bits of a byte of BUF have its value. -/
theorem bitsVal_byte (s : State) (i : Nat) : bitsVal s (8 * i) 8 = (bufRead s i).toNat := by
  apply Nat.eq_of_testBit_eq
  intro j
  by_cases hj : j < 8
  · rw [testBit_bitsVal s _ hj, bitAt, BitVec.testBit_toNat, show (8 * i + (8 - 1 - j)) / 8 = i by omega,
      show 7 - (8 * i + (8 - 1 - j)) % 8 = j by omega]
  · have hpow : 2 ^ 8 ≤ 2 ^ j := Nat.pow_le_pow_right (by omega) (by omega)
    rw [Nat.testBit_lt_two_pow ((bitsVal_lt s _ 8).trans_le hpow),
      Nat.testBit_lt_two_pow ((bufRead s i).isLt.trans_le hpow)]

/-- A value of at most 32 bits fits RESP.VALUE. -/
theorem toNat_ofNat_bitsVal (s : State) (a : Nat) {n : Nat} (h : n ≤ 32) :
    (BitVec.ofNat 32 (bitsVal s a n)).toNat = bitsVal s a n := by
  have hpow : 2 ^ n ≤ 2 ^ 32 := Nat.pow_le_pow_right (by omega) h
  rw [BitVec.toNat_ofNat, Nat.mod_eq_of_lt ((bitsVal_lt s a n).trans_le hpow)]

/-- Byte by byte the value is big-endian. -/
theorem bitsVal_bytes_succ (s : State) (i m : Nat) :
    bitsVal s (8 * i) (8 * (m + 1)) = bitsVal s (8 * i) (8 * m) * 256 + (bufRead s (i + m)).toNat := by
  rw [Nat.mul_succ, bitsVal_add, ← Nat.mul_add, bitsVal_byte]
  rfl

theorem toNat_append_byte {n : Nat} (x : BitVec n) (b : Byte) : (x ++ b).toNat = x.toNat * 256 + b.toNat := by
  rw [BitVec.toNat_append, ← Nat.shiftLeft_add_eq_or_of_lt b.isLt, Nat.shiftLeft_eq]

/-- R256 (c): four bytes are one word, the first byte on top. -/
theorem ofNat_bitsVal_word (s : State) (i : Nat) : BitVec.ofNat 32 (bitsVal s (8 * i) (8 * 4)) =
    bufRead s i ++ bufRead s (i + 1) ++ bufRead s (i + 2) ++ bufRead s (i + 3) := by
  apply BitVec.eq_of_toNat_eq
  rw [toNat_ofNat_bitsVal s _ le_rfl, toNat_append_byte, toNat_append_byte, toNat_append_byte,
    bitsVal_bytes_succ s i 3, bitsVal_bytes_succ s i 2, bitsVal_bytes_succ s i 1, Nat.mul_one, bitsVal_byte]

/-- BUF decides every bit string; moving BITPOS and answering does not change it. -/
theorem bitsVal_of_buf_eq {s t : State} (h : t.bc.buf = s.bc.buf) (a n : Nat) : bitsVal t a n = bitsVal s a n :=
  bitsVal_congr fun _ _ => bitAt_congr (by rw [bufRead, bufRead, h])

/-! ## What an answer leaves -/

/-- R93: a state that answers with another bit cursor differs in nothing else. -/
theorem onlyBc_respond (s : State) (opc : BitVec 8) (c : Cause) (v : Word32) (b : BitCursor) :
    OnlyBc s (respond opc c v { s with bc := b }) := ⟨rfl, rfl, rfl, rfl, rfl, rfl, rfl⟩

/-- An answer that leaves BUF alone leaves every byte of the three memories. -/
theorem memSame_respond (s : State) (opc : BitVec 8) (c : Cause) (v : Word32) {b : BitCursor} (h : b.buf = s.bc.buf) :
    MemSame s (respond opc c v { s with bc := b }) :=
  ⟨fun a => congrArg (Memory.read · a) h, fun _ => rfl, rfl⟩

/-- R250: what bc_fail leaves. -/
theorem bcFailed_bcFail (s : State) (opc : BitVec 8) (c : Cause) : BcFailed s (bcFail opc c s) opc c :=
  ⟨respIs_respond _ _ _ _, rfl, rfl, ⟨rfl, rfl, rfl, memSame_respond s _ _ _ rfl⟩, onlyBc_respond s _ _ _ _⟩

/-- R250: what a successful read leaves. -/
theorem bcRead_respondOk (s : State) (opc : BitVec 8) (v : Word32) (n : Nat) :
    BcRead s (respondOk opc v { s with bc.bitPos := s.bc.bitPos + n }) opc v n :=
  ⟨respIs_respond _ _ _ _, rfl, rfl, rfl, memSame_respond s _ _ _ rfl, ⟨rfl, rfl⟩, onlyBc_respond s _ _ _ _⟩

theorem bcFail_err {opc : BitVec 8} {c : Cause} (s : State) (h : c ≠ .none) : (bcFail opc c s).resp.err = true :=
  decide_eq_true h

/-! ## BC.RDU -/

theorem exec_bcRdu_of_width {n : BitVec 16} (s : State) (h : n.toNat < 1 ∨ 32 < n.toNat) :
    exec (.bcRdu n) s = .next (bcFail opcBcRdu .bcWidth s) := if_pos h

theorem exec_bcRdu_of_short {n : BitVec 16} {s : State} (h1 : 1 ≤ n.toNat) (h32 : n.toNat ≤ 32)
    (h : nbits s < s.bc.bitPos + n.toNat) : exec (.bcRdu n) s = .next (bcFail opcBcRdu .bcBounds s) :=
  (if_neg (by omega)).trans (if_pos h)

theorem exec_bcRdu_of_fits {n : BitVec 16} {s : State} (h1 : 1 ≤ n.toNat) (h32 : n.toNat ≤ 32)
    (h : s.bc.bitPos + n.toNat ≤ nbits s) :
    exec (.bcRdu n) s = .next (respondOk opcBcRdu (BitVec.ofNat 32 (bitsVal s s.bc.bitPos n.toNat))
      { s with bc.bitPos := s.bc.bitPos + n.toNat }) :=
  (if_neg (by omega)).trans (if_neg (by omega))

/-- Settles O15: the two tests in order, and the read. -/
theorem bcRduReadsOrFails : Obligations.BcRduReadsOrFails := by
  unfold Obligations.BcRduReadsOrFails
  exact fun n s => ⟨fun h => ⟨_, exec_bcRdu_of_width s h, bcFailed_bcFail s _ _⟩,
    fun h1 h32 h => ⟨_, exec_bcRdu_of_short h1 h32 h, bcFailed_bcFail s _ _⟩,
    fun h1 h32 h => ⟨_, exec_bcRdu_of_fits h1 h32 h, bcRead_respondOk s _ _ _⟩⟩

/-- A read that did not fail had a width in range and its bits in the buffer. -/
theorem exec_bcRdu_inv {n : BitVec 16} {s t : State} (h : exec (.bcRdu n) s = .next t) (he : t.resp.err = false) :
    1 ≤ n.toNat ∧ n.toNat ≤ 32 ∧ s.bc.bitPos + n.toNat ≤ nbits s ∧
      t.bc = { s.bc with bitPos := s.bc.bitPos + n.toNat } ∧
      t.resp.value.toNat = bitsVal s s.bc.bitPos n.toNat := by
  by_cases hw : n.toNat < 1 ∨ 32 < n.toNat
  · cases Host.Outcome.next.inj (h.symm.trans (exec_bcRdu_of_width s hw))
    cases he
  · have h1 : 1 ≤ n.toNat := by omega
    have h32 : n.toNat ≤ 32 := by omega
    by_cases hb : nbits s < s.bc.bitPos + n.toNat
    · cases Host.Outcome.next.inj (h.symm.trans (exec_bcRdu_of_short h1 h32 hb))
      cases he
    · have hfits := Nat.not_lt.1 hb
      cases Host.Outcome.next.inj (h.symm.trans (exec_bcRdu_of_fits h1 h32 hfits))
      exact ⟨h1, h32, hfits, rfl, toNat_ofNat_bitsVal s _ h32⟩

/-- R262: when a read of an admitted width succeeds. -/
theorem exec_bcRdu_succeeds_iff {n : BitVec 16} {s : State} (h1 : 1 ≤ n.toNat) (h32 : n.toNat ≤ 32) :
    (∃ u, exec (.bcRdu n) s = .next u ∧ u.resp.err = false) ↔ s.bc.bitPos + n.toNat ≤ nbits s := by
  constructor
  · rintro ⟨u, hx, he⟩
    obtain ⟨-, -, hfits, -⟩ := exec_bcRdu_inv hx he
    exact hfits
  · exact fun hfits => ⟨_, exec_bcRdu_of_fits h1 h32 hfits, rfl⟩

/-- R256 (a). -/
theorem exec_bcRdu_value_lt {n : BitVec 16} {s t : State} (h : exec (.bcRdu n) s = .next t)
    (he : t.resp.err = false) : t.resp.value.toNat < 2 ^ n.toNat := by
  obtain ⟨-, -, -, -, hv⟩ := exec_bcRdu_inv h he
  exact hv.trans_lt (bitsVal_lt s _ _)

/-- R256 (b): the second read begins where the first ended, on the same buffer. -/
theorem exec_bcRdu_split {n₁ n₂ : BitVec 16} {s t u : State} (hn : n₁.toNat + n₂.toNat ≤ 32)
    (ht : exec (.bcRdu n₁) s = .next t) (het : t.resp.err = false) (hu : exec (.bcRdu n₂) t = .next u)
    (heu : u.resp.err = false) :
    ∃ v, exec (.bcRdu (n₁ + n₂)) s = .next v ∧ v.resp.err = false ∧ v.bc.bitPos = u.bc.bitPos ∧
      v.resp.value.toNat = t.resp.value.toNat * 2 ^ n₂.toNat + u.resp.value.toNat := by
  obtain ⟨h1, -, -, hbc, hv⟩ := exec_bcRdu_inv ht het
  obtain ⟨-, -, hfits, hbc', hv'⟩ := exec_bcRdu_inv hu heu
  have hbuf : t.bc.buf = s.bc.buf := by rw [hbc]
  have hpos : t.bc.bitPos = s.bc.bitPos + n₁.toNat := by rw [hbc]
  have hlen : nbits t = nbits s := by rw [nbits, nbits, hbc]
  have hsum : (n₁ + n₂).toNat = n₁.toNat + n₂.toNat := by rw [BitVec.toNat_add, Nat.mod_eq_of_lt (by omega)]
  refine ⟨_, exec_bcRdu_of_fits (by omega) (by omega) (by omega), rfl, ?_, ?_⟩
  · rw [hbc', hpos, Nat.add_assoc, ← hsum]
    rfl
  · rw [hv, hv', bitsVal_of_buf_eq hbuf, hpos, ← bitsVal_add, ← hsum]
    exact toNat_ofNat_bitsVal s _ (hsum.trans_le hn)

/-- R256 (c): at a byte boundary a read of m bytes answers the bits of the next m bytes. -/
theorem exec_bcRdu_of_aligned {n : BitVec 16} {s : State} {i m : Nat} (hp : s.bc.bitPos = 8 * i) (hn : n.toNat = 8 * m)
    (h1 : 1 ≤ m) (h4 : m ≤ 4) (hl : i + m ≤ s.bc.bufLen) :
    ∃ t, exec (.bcRdu n) s = .next t ∧ t.resp.value = BitVec.ofNat 32 (bitsVal s (8 * i) (8 * m)) := by
  have hfits : s.bc.bitPos + n.toNat ≤ nbits s := by unfold nbits; omega
  exact ⟨_, exec_bcRdu_of_fits (by omega) (by omega) hfits, by rw [← hp, ← hn]; rfl⟩

/-- Settles O16: the value is a bit string's, which is bounded, splits anywhere and is read by whole bytes. -/
theorem bcRduValueLaws : Obligations.BcRduValueLaws := by
  unfold Obligations.BcRduValueLaws
  refine ⟨fun n s t => exec_bcRdu_value_lt, fun n₁ n₂ s t u hn ht het hu heu => exec_bcRdu_split hn ht het hu heu,
    fun s i hp => ⟨fun hl => ?_, fun hl => ?_, fun hl => ?_⟩⟩
  · obtain ⟨t, hx, hv⟩ := exec_bcRdu_of_aligned (n := 8) (m := 1) hp rfl (by omega) (by omega) hl
    exact ⟨t, hx, by rw [hv, toNat_ofNat_bitsVal s _ (by omega), bitsVal_byte]⟩
  · obtain ⟨t, hx, hv⟩ := exec_bcRdu_of_aligned (n := 16) (m := 2) hp rfl (by omega) (by omega) hl
    exact ⟨t, hx, by rw [hv, toNat_ofNat_bitsVal s _ (by omega), bitsVal_bytes_succ, bitsVal_byte]⟩
  · obtain ⟨t, hx, hv⟩ := exec_bcRdu_of_aligned (n := 32) (m := 4) hp rfl (by omega) (by omega) hl
    exact ⟨t, hx, by rw [hv, ofNat_bitsVal_word]⟩

/-! ## BC.RDUE -/

theorem exec_bcRdue_of_error {s : State} {c : Cause} (h : readCodeword s = .error c) :
    exec .bcRdue s = .next (bcFail opcBcRdue c s) := by
  simp only [exec, execBcRdue, h]

theorem exec_bcRdue_of_ok {s : State} {w : Codeword} (h : readCodeword s = .ok w) :
    exec .bcRdue s = .next (respondOk opcBcRdue (BitVec.ofNat 32 w.value)
      { s with bc.bitPos := s.bc.bitPos + w.width }) := by
  simp only [exec, execBcRdue, h]

theorem readCodeword_error_ne_none {s : State} {c : Cause} (h : readCodeword s = .error c) : c ≠ .none := by
  rcases readCodeword_error h with rfl | rfl <;> exact nofun

theorem readCodeword_of_scan_error {s : State} {c : Cause} (h : scanZeros s 32 0 = .error c) :
    readCodeword s = .error c := by
  simp only [readCodeword, h]

/-- R258: the suffix runs over the end of the buffer. -/
theorem readCodeword_of_short_suffix {s : State} {k : Nat} (h : scanZeros s 32 0 = .ok k)
    (hb : nbits s < s.bc.bitPos + 2 * k + 1) : readCodeword s = .error .bcBounds := by
  simp only [readCodeword, h, hb, ↓reduceIte]

/-- Settles O17: the scan meets the end of the buffer, a 1, or too many zeros; after a 1 the suffix fits or not. -/
theorem bcRdueDecodesOrFails : Obligations.BcRdueDecodesOrFails := by
  unfold Obligations.BcRdueDecodesOrFails
  refine fun s => ⟨fun k hk hz => ⟨fun hend => ?_, fun hin hone => ⟨fun hshort => ?_, fun hfits => ?_⟩⟩, fun hz => ?_⟩
  · have hscan := scanZeros_eq_bounds s 32 0 k (by omega) (by omega) (fun i _ hi => hz i hi) hend
    exact ⟨_, exec_bcRdue_of_error (readCodeword_of_scan_error hscan), bcFailed_bcFail s _ _⟩
  · have hscan : scanZeros s 32 0 = .ok k :=
      (scanZeros_eq_ok_iff s 32 0 k).2 ⟨by omega, by omega, fun i _ hi => (hz i hi).2, hone, hin⟩
    exact ⟨_, exec_bcRdue_of_error (readCodeword_of_short_suffix hscan hshort), bcFailed_bcFail s _ _⟩
  · have hread := (readCodeword_eq_ok_iff s _).2 ⟨k, by omega, fun i hi => (hz i hi).2, hone, hfits, rfl⟩
    exact ⟨_, exec_bcRdue_of_ok hread, bcRead_respondOk s _ _ _⟩
  · have hscan := scanZeros_eq_tooLong s 32 0 fun i _ hi => hz i (by omega)
    exact ⟨_, exec_bcRdue_of_error (readCodeword_of_scan_error hscan), bcFailed_bcFail s _ _⟩

/-! ## The code -/

/-- A bit string of value 0 is all zeros. -/
theorem bitsVal_eq_zero_iff (s : State) (a n : Nat) : bitsVal s a n = 0 ↔ ∀ j, j < n → bitAt s (a + j) = false :=
  ⟨fun h j hj => by rw [bitAt_eq_testBit s a hj, h, Nat.zero_testBit], bitsVal_eq_zero s a n⟩

/-- R122: k zeros, a 1 and k more bits are the value 2^k + suffix in 2k + 1 bits. -/
theorem bitsVal_codeword (s : State) (a k : Nat) : bitsVal s a (2 * k + 1) =
    (2 * bitsVal s a k + (bitAt s (a + k)).toNat) * 2 ^ k + bitsVal s (a + k + 1) k := by
  rw [show 2 * k + 1 = k + 1 + k by omega, bitsVal_add, bitsVal, Nat.add_assoc a k 1]

/-- R122: a string of 2k + 1 bits whose value has k + 1 bits is k zeros, a 1 and a suffix. -/
theorem codeword_shape_iff (s : State) (a k : Nat) :
    (2 ^ k ≤ bitsVal s a (2 * k + 1) ∧ bitsVal s a (2 * k + 1) < 2 ^ (k + 1)) ↔
      (∀ j, j < k → bitAt s (a + j) = false) ∧ bitAt s (a + k) = true := by
  have hprefix : bitsVal s a (2 * k + 1) / 2 ^ k = 2 * bitsVal s a k + (bitAt s (a + k)).toNat := by
    rw [bitsVal_codeword, Nat.mul_comm, Nat.mul_add_div (Nat.two_pow_pos k), Nat.div_eq_of_lt (bitsVal_lt s _ k),
      Nat.add_zero]
  have hone : bitsVal s a (2 * k + 1) / 2 ^ k = 1 ↔ bitsVal s a k = 0 ∧ bitAt s (a + k) = true := by
    rw [hprefix]
    cases bitAt s (a + k) <;> simp
  have hpow := Nat.two_pow_pos k
  rw [← bitsVal_eq_zero_iff, ← hone, Nat.div_eq_iff hpow, Nat.pow_succ]
  omega

/-- R259: a codeword that was read is the binary form of its value plus 1, after a zero for each bit but the first. -/
theorem readCodeword_code {s : State} {w : Codeword} (h : readCodeword s = .ok w) :
    Nat.log2 (w.value + 1) < 32 ∧ w.width = 2 * Nat.log2 (w.value + 1) + 1 ∧
      bitsVal s s.bc.bitPos w.width = w.value + 1 := by
  obtain ⟨k, hk, hz, hone, -, rfl⟩ := (readCodeword_eq_ok_iff s w).1 h
  have hbits : bitsVal s s.bc.bitPos (2 * k + 1) = 2 ^ k - 1 + bitsVal s (s.bc.bitPos + k + 1) k + 1 := by
    have hpow := Nat.two_pow_pos k
    rw [bitsVal_codeword, bitsVal_eq_zero s _ k hz, hone, Bool.toNat_true, Nat.mul_zero, Nat.zero_add, Nat.one_mul]
    omega
  have hlog : Nat.log2 (2 ^ k - 1 + bitsVal s (s.bc.bitPos + k + 1) k + 1) = k := by
    rw [Nat.log2_eq_iff (Nat.add_one_ne_zero _), ← hbits]
    exact (codeword_shape_iff s s.bc.bitPos k).2 ⟨hz, hone⟩
  exact ⟨hlog.trans_lt hk, by rw [hlog], hbits⟩

/-- R259: the codeword of m, whole inside the buffer, is read as m. -/
theorem readCodeword_of_code {s : State} {m : Nat} (hm : m < 2 ^ 32 - 1)
    (hfits : s.bc.bitPos + (2 * Nat.log2 (m + 1) + 1) ≤ nbits s)
    (hbits : bitsVal s s.bc.bitPos (2 * Nat.log2 (m + 1) + 1) = m + 1) :
    readCodeword s = .ok { value := m, width := 2 * Nat.log2 (m + 1) + 1 } := by
  have hk : Nat.log2 (m + 1) < 32 := (Nat.log2_lt (Nat.add_one_ne_zero m)).2 (by omega)
  obtain ⟨hlow, hhigh⟩ := (Nat.log2_eq_iff (Nat.add_one_ne_zero m)).1 rfl
  generalize Nat.log2 (m + 1) = k at *
  rw [← hbits] at hlow hhigh
  obtain ⟨hz, hone⟩ := (codeword_shape_iff s s.bc.bitPos k).1 ⟨hlow, hhigh⟩
  have hvalue : m = 2 ^ k - 1 + bitsVal s (s.bc.bitPos + k + 1) k := by
    have hpow := Nat.two_pow_pos k
    rw [bitsVal_codeword, bitsVal_eq_zero s _ k hz, hone, Bool.toNat_true, Nat.mul_zero, Nat.zero_add,
      Nat.one_mul] at hbits
    omega
  exact (readCodeword_eq_ok_iff s _).2 ⟨k, hk, hz, hone, by omega, by rw [← hvalue]⟩

theorem toNat_ofNat_value {s : State} {w : Codeword} (h : readCodeword s = .ok w) :
    (BitVec.ofNat 32 w.value).toNat = w.value := by
  have hlt := (readCodeword_value_lt h).1
  rw [BitVec.toNat_ofNat, Nat.mod_eq_of_lt (by omega)]

/-- A BC.RDUE that did not fail answered a codeword's value and moved by its width. -/
theorem exec_bcRdue_inv {s t : State} (h : exec .bcRdue s = .next t) (he : t.resp.err = false) :
    ∃ w, readCodeword s = .ok w ∧ t.resp.value.toNat = w.value ∧ t.bc.bitPos = s.bc.bitPos + w.width := by
  cases hr : readCodeword s with
  | error c =>
    cases Host.Outcome.next.inj (h.symm.trans (exec_bcRdue_of_error hr))
    rw [bcFail_err s (readCodeword_error_ne_none hr)] at he
    cases he
  | ok w =>
    cases Host.Outcome.next.inj (h.symm.trans (exec_bcRdue_of_ok hr))
    exact ⟨w, rfl, toNat_ofNat_value hr, rfl⟩

/-- R259: what a successful BC.RDUE says of its value and its advance. -/
theorem exec_bcRdue_bounds {s t : State} (h : exec .bcRdue s = .next t) (he : t.resp.err = false) :
    t.resp.value.toNat < 2 ^ 32 - 1 ∧
    t.bc.bitPos = s.bc.bitPos + (2 * Nat.log2 (t.resp.value.toNat + 1) + 1) ∧
    2 ^ Nat.log2 (t.resp.value.toNat + 1) - 1 ≤ t.resp.value.toNat ∧
    t.resp.value.toNat ≤ 2 ^ (Nat.log2 (t.resp.value.toNat + 1) + 1) - 2 ∧
    2 * Nat.log2 (t.resp.value.toNat + 1) + 1 ≤ 63 := by
  obtain ⟨w, hr, hv, hp⟩ := exec_bcRdue_inv h he
  obtain ⟨hk, hw, -⟩ := readCodeword_code hr
  obtain ⟨hlow, hhigh⟩ := (Nat.log2_eq_iff (Nat.add_one_ne_zero w.value)).1 rfl
  rw [hv, hp, hw]
  exact ⟨(readCodeword_value_lt hr).1, rfl, by omega, by omega, by omega⟩

/-- R259: BC.RDUE answers m exactly on the codeword of m. -/
theorem exec_bcRdue_answers_iff (s : State) {m : Nat} (hm : m < 2 ^ 32 - 1) :
    (∃ t, exec .bcRdue s = .next t ∧ t.resp.err = false ∧ t.resp.value.toNat = m) ↔
      s.bc.bitPos + (2 * Nat.log2 (m + 1) + 1) ≤ nbits s ∧
        bitsVal s s.bc.bitPos (2 * Nat.log2 (m + 1) + 1) = m + 1 := by
  constructor
  · rintro ⟨t, hx, he, rfl⟩
    obtain ⟨w, hr, hv, -⟩ := exec_bcRdue_inv hx he
    obtain ⟨-, hw, hbits⟩ := readCodeword_code hr
    rw [hv, ← hw]
    exact ⟨(readCodeword_value_lt hr).2, hbits⟩
  · rintro ⟨hfits, hbits⟩
    have hr := readCodeword_of_code hm hfits hbits
    exact ⟨_, exec_bcRdue_of_ok hr, rfl, toNat_ofNat_value hr⟩

/-- Settles O18: the bits of a codeword are the binary form of m + 1, whose length says how many zeros
stand before it. -/
theorem bcRdueInvertsTheCode : Obligations.BcRdueInvertsTheCode := by
  unfold Obligations.BcRdueInvertsTheCode
  exact ⟨fun s t => exec_bcRdue_bounds, fun s m => exec_bcRdue_answers_iff s⟩

/-! ## BC.RDSE -/

theorem exec_bcRdse_of_error {s : State} {c : Cause} (h : readCodeword s = .error c) :
    exec .bcRdse s = .next (bcFail opcBcRdse c s) := by
  simp only [exec, execBcRdse, h]

theorem exec_bcRdse_of_ok {s : State} {w : Codeword} (h : readCodeword s = .ok w) :
    exec .bcRdse s = .next (respondOk opcBcRdse (BitVec.ofInt 32 (signedOf w.value))
      { s with bc.bitPos := s.bc.bitPos + w.width }) := by
  simp only [exec, execBcRdse, h]

theorem signedOf_of_odd {m : Nat} (h : m % 2 = 1) : signedOf m = ((m + 1) / 2 : Nat) := if_pos h

theorem signedOf_of_even {m : Nat} (h : m % 2 = 0) : signedOf m = -((m / 2 : Nat) : Int) := if_neg (by omega)

/-- R260: the signed value of a codeword fits 32 bits. -/
theorem signedOf_bounds {m : Nat} (h : m < 2 ^ 32 - 1) : -(2 ^ 31 - 1) ≤ signedOf m ∧ signedOf m ≤ 2 ^ 31 - 1 := by
  rcases Nat.mod_two_eq_zero_or_one m with hm | hm
  · rw [signedOf_of_even hm]
    omega
  · rw [signedOf_of_odd hm]
    omega

theorem toInt_ofInt_signedOf {m : Nat} (h : m < 2 ^ 32 - 1) : (BitVec.ofInt 32 (signedOf m)).toInt = signedOf m := by
  obtain ⟨hlow, hhigh⟩ := signedOf_bounds h
  exact BitVec.toInt_ofInt_eq_self (by omega) (by omega) (by omega)

/-- Settles O19: both commands answer from the same codeword, BC.RDSE with its signed value. -/
theorem bcRdseMapsTheUnsignedCode : Obligations.BcRdseMapsTheUnsignedCode := by
  unfold Obligations.BcRdseMapsTheUnsignedCode
  intro s
  cases hr : readCodeword s with
  | error c =>
    have herr : (bcFail opcBcRdue c s).resp.err ≠ false :=
      ne_false_of_eq_true (bcFail_err s (readCodeword_error_ne_none hr))
    exact ⟨_, _, exec_bcRdue_of_error hr, exec_bcRdse_of_error hr, rfl, onlyBc_respond s _ _ _ _,
      memSame_respond s _ _ _ rfl, fun _ => respIs_respond _ _ _ _, fun hok => absurd hok herr⟩
  | ok w =>
    obtain ⟨hlt, -⟩ := readCodeword_value_lt hr
    have hu := toNat_ofNat_value hr
    have ht := toInt_ofInt_signedOf hlt
    refine ⟨_, _, exec_bcRdue_of_ok hr, exec_bcRdse_of_ok hr, rfl, onlyBc_respond s _ _ _ _,
      memSame_respond s _ _ _ rfl, nofun, fun _ => ⟨respIs_respond _ _ _ _, ?_⟩⟩
    simp only [respondOk_resp, hu, ht]
    exact ⟨signedOf_of_odd, signedOf_of_even, signedOf_bounds hlt⟩

/-! ## BC.REM -/

/-- Settles O20: the bits that remain are fewer than 2^32 in a legal buffer, and a read needs as many as its width. -/
theorem bcRemCountsRemainingBits : Obligations.BcRemCountsRemainingBits := by
  unfold Obligations.BcRemCountsRemainingBits
  refine fun s => ⟨_, rfl, respIs_respond _ _ _ _, rfl, memSame_respond s _ _ _ rfl, fun hc hl => ?_⟩
  obtain ⟨hpos, hlen⟩ := hc
  obtain ⟨-, -, hcap⟩ := hl
  have hn : nbits s = 8 * s.bc.bufLen := rfl
  have hval : (BitVec.ofNat 32 (nbits s - s.bc.bitPos)).toNat = nbits s - s.bc.bitPos := by
    rw [BitVec.toNat_ofNat, Nat.mod_eq_of_lt (by omega)]
  refine ⟨hval, fun n h1 h32 => ?_⟩
  rw [exec_bcRdu_succeeds_iff h1 h32, respondOk_resp, hval]
  omega

/-! ## BC.CLEAR, BC.ALIGN and BC.PUSH -/

/-- Settles O12: the next multiple of 8 is less than 8 bits away, and the loaded bits end at one. -/
theorem bcClearAndAlignComplete : Obligations.BcClearAndAlignComplete := by
  unfold Obligations.BcClearAndAlignComplete
  intro s
  refine ⟨⟨_, rfl, rfl, respIs_respond _ _ _ _, memSame_respond s _ _ _ rfl, onlyBc_respond s _ _ _ _⟩,
    _, rfl, rfl, ?_, ?_, ?_, fun hc => ?_, respIs_respond _ _ _ _, memSame_respond s _ _ _ rfl,
    onlyBc_respond s _ _ _ _⟩
  · exact Nat.mul_mod_right 8 _
  · simp only [respondOk_bc]
    omega
  · simp only [respondOk_bc]
    omega
  · obtain ⟨hpos, -⟩ := hc
    simp only [respondOk_bc]
    omega

theorem exec_bcPush_of_full {b : Byte} {s : State} (h : s.bc.bufLen = s.params.bcBufBytes) :
    exec (.bcPush b) s = .next (bcFail opcBcPush .bcFull s) := if_pos h

theorem exec_bcPush_of_room {b : Byte} {s : State} (h : s.bc.bufLen ≠ s.params.bcBufBytes) :
    exec (.bcPush b) s = .next (respondOk opcBcPush (BitVec.ofNat 32 (s.bc.bufLen + 1))
      { s with bc.buf := s.bc.buf.write s.bc.bufLen b, bc.bufLen := s.bc.bufLen + 1 }) := if_neg h

/-- Settles O13: the byte is read back where it was written, and every other byte as before. -/
theorem bcPushAppendsOneByte : Obligations.BcPushAppendsOneByte := by
  unfold Obligations.BcPushAppendsOneByte
  refine fun b s => ⟨fun h => ?_, fun h => ⟨_, exec_bcPush_of_full h, bcFailed_bcFail s _ _⟩⟩
  refine ⟨_, exec_bcPush_of_room h, rfl, ?_, fun a ha => ?_, fun _ => rfl, rfl, ⟨rfl, rfl⟩, respIs_respond _ _ _ _,
    onlyBc_respond s _ _ _ _⟩
  · exact (bufRead_of_write (s := s) rfl _).trans (if_pos rfl)
  · exact (bufRead_of_write (s := s) rfl a).trans (if_neg ha)

/-! ## Failure -/

/-- R250: a command other than BC.CLEAR ends in bc_fail, or answers and leaves the sticky pair. -/
theorem exec_bc_fails_or_answers {i : Instr} {s : State} (hi : isBcCmd i = true) (hclear : i ≠ .bcClear) :
    (∃ opc c, c ≠ .none ∧ exec i s = .next (bcFail opc c s)) ∨
    ∃ opc v b, exec i s = .next (respondOk opc v { s with bc := b }) ∧
      b.errSticky = s.bc.errSticky ∧ b.lastCause = s.bc.lastCause := by
  rcases exec_bc_cases i s hi with
    hfail | ⟨_, _, _, _, hx⟩ | ⟨_, _, hx⟩ | ⟨h, _⟩ | ⟨_, _, _, hx⟩ | ⟨_, hx⟩
  · exact .inl hfail
  · exact .inr ⟨_, _, _, hx, rfl, rfl⟩
  · exact .inr ⟨_, _, s.bc, hx, rfl, rfl⟩
  · exact absurd h hclear
  · exact .inr ⟨_, _, _, hx, rfl, rfl⟩
  · exact .inr ⟨_, _, _, hx, rfl, rfl⟩

/-- Settles O21: a failing command is bc_fail; a succeeding one answers, and only BC.CLEAR writes the sticky pair. -/
theorem bcCommandsFailAtomically : Obligations.BcCommandsFailAtomically := by
  unfold Obligations.BcCommandsFailAtomically
  intro i s hi
  by_cases hclear : i = .bcClear
  · subst hclear
    exact ⟨_, rfl, onlyBc_respond s _ _ _ _, nofun, fun _ => rfl, fun _ hne => absurd rfl hne, fun _ _ => ⟨rfl, rfl⟩⟩
  · rcases exec_bc_fails_or_answers hi hclear with ⟨opc, c, hc, hx⟩ | ⟨opc, v, b, hx, hsticky, hcause⟩
    · have herr : (bcFail opc c s).resp.err ≠ false := ne_false_of_eq_true (bcFail_err s hc)
      exact ⟨_, hx, onlyBc_respond s _ _ _ _, fun _ => bcFailed_bcFail s opc c, fun hok => absurd hok herr,
        fun hok => absurd hok herr, fun hok => absurd hok herr⟩
    · exact ⟨_, hx, onlyBc_respond s _ _ _ _, nofun, fun _ => rfl, fun _ _ => ⟨hsticky, hcause⟩,
        fun _ h => absurd h hclear⟩

/-! ## Bytes of BUF that are never read -/

/-- The state with another BUF. -/
def withBuf (m : Memory) (s : State) : State := { s with bc.buf := m }

/-- `m` agrees with BUF below BUF_LEN (R34). -/
def BufAgrees (m : Memory) (s : State) : Prop := ∀ a, a < s.bc.bufLen → bufRead (withBuf m s) a = bufRead s a

theorem sameButUnreadBuf_iff (s t : State) : SameButUnreadBuf s t ↔ ∃ m, t = withBuf m s ∧ BufAgrees m s := by
  constructor
  · rintro ⟨ht, hb⟩
    refine ⟨t.bc.buf, ht, fun a ha => ?_⟩
    rw [← hb a ha]
    rfl
  · rintro ⟨m, rfl, hb⟩
    exact ⟨rfl, hb⟩

/-- With another BUF that agrees, `F` answers the same next state, with a BUF that agrees again. -/
def HidesUnreadBuf (F : State → Out) : Prop :=
  ∀ m s s', BufAgrees m s → F s = .next s' → ∃ m', F (withBuf m s) = .next (withBuf m' s') ∧ BufAgrees m' s'

theorem BufAgrees.congr {m : Memory} {s t : State} (h : BufAgrees m s) (hb : t.bc.buf = s.bc.buf)
    (hl : t.bc.bufLen ≤ s.bc.bufLen) : BufAgrees m t := fun a ha => by
  rw [show bufRead t a = bufRead s a by rw [bufRead, bufRead, hb], ← h a (ha.trans_le hl)]
  rfl

/-- An operation that always answers and leaves BUF and BUF_LEN alone. -/
theorem hidesUnreadBuf_next {g : State → State} (hg : ∀ m s, g (withBuf m s) = withBuf m (g s))
    (hb : ∀ s, (g s).bc.buf = s.bc.buf) (hl : ∀ s, (g s).bc.bufLen = s.bc.bufLen) :
    HidesUnreadBuf fun s => .next (g s) := fun m s s' hm h => by
  cases Host.Outcome.next.inj h
  exact ⟨m, congrArg _ (hg m s), hm.congr (hb s) (hl s).le⟩

/-- R93: what acts beside any bit cursor acts beside any BUF. -/
theorem ActsBesideUnits.hidesUnreadBuf {F : State → Out} (hF : ActsBesideUnits F) : HidesUnreadBuf F := by
  intro m s u hm h
  obtain ⟨hframe, hunits⟩ := hF s u h
  refine ⟨m, (hunits s.crc { s.bc with buf := m } s.resp).trans ?_, hm.congr ?_ ?_⟩
  all_goals rw [hframe]
  · rfl

/-! ### Commands of the bit cursor -/

theorem readCodeword_withBuf {m : Memory} {s : State} (hm : BufAgrees m s) :
    readCodeword (withBuf m s) = readCodeword s := readCodeword_congr_loaded rfl rfl hm

/-- R265: a bit string inside the buffer lies in loaded bytes. -/
theorem bitsVal_withBuf {m : Memory} {s : State} (hm : BufAgrees m s) {a n : Nat} (h : a + n ≤ nbits s) :
    bitsVal (withBuf m s) a n = bitsVal s a n :=
  bitsVal_congr fun j hj => bitAt_congr (hm _ (by unfold nbits at h; omega))

/-- R265: a command that does not store answers the same beside a BUF that agrees, and leaves that BUF. -/
theorem exec_bc_withBuf {i : Instr} {m : Memory} {s t : State} (hi : isBcCmd i = true) (hp : ∀ b, i ≠ .bcPush b)
    (hm : BufAgrees m s) (h : exec i s = .next t) : exec i (withBuf m s) = .next (withBuf m t) := by
  have hcw := readCodeword_withBuf hm
  cases i with
  | bcClear | bcAlign | bcRem => cases Host.Outcome.next.inj h; rfl
  | bcPush b => exact absurd rfl (hp b)
  | bcRdu n =>
    by_cases hw : n.toNat < 1 ∨ 32 < n.toNat
    · cases Host.Outcome.next.inj (h.symm.trans (exec_bcRdu_of_width s hw))
      exact exec_bcRdu_of_width _ hw
    · have h1 : 1 ≤ n.toNat := by omega
      have h32 : n.toNat ≤ 32 := by omega
      by_cases hb : nbits s < s.bc.bitPos + n.toNat
      · cases Host.Outcome.next.inj (h.symm.trans (exec_bcRdu_of_short h1 h32 hb))
        exact exec_bcRdu_of_short (s := withBuf m s) h1 h32 hb
      · have hfits := Nat.not_lt.1 hb
        cases Host.Outcome.next.inj (h.symm.trans (exec_bcRdu_of_fits h1 h32 hfits))
        rw [← bitsVal_withBuf hm hfits]
        exact exec_bcRdu_of_fits (s := withBuf m s) h1 h32 hfits
  | bcRdue =>
    cases hr : readCodeword s with
    | error c =>
      cases Host.Outcome.next.inj (h.symm.trans (exec_bcRdue_of_error hr))
      exact exec_bcRdue_of_error (hcw.trans hr)
    | ok w =>
      cases Host.Outcome.next.inj (h.symm.trans (exec_bcRdue_of_ok hr))
      exact exec_bcRdue_of_ok (hcw.trans hr)
  | bcRdse =>
    cases hr : readCodeword s with
    | error c =>
      cases Host.Outcome.next.inj (h.symm.trans (exec_bcRdse_of_error hr))
      exact exec_bcRdse_of_error (hcw.trans hr)
    | ok w =>
      cases Host.Outcome.next.inj (h.symm.trans (exec_bcRdse_of_ok hr))
      exact exec_bcRdse_of_ok (hcw.trans hr)
  | sysReset | frmStart | frmAbort | crcInit | crcByte | crcCheck => cases hi
  | tspTei | tspRsv | tspPay | tspAf | tspAfpay | tspNosync => cases hi

/-- R253: only BC.PUSH stores or raises BUF_LEN. -/
theorem exec_bc_keeps_buf {i : Instr} {s t : State} (hi : isBcCmd i = true) (hp : ∀ b, i ≠ .bcPush b)
    (h : exec i s = .next t) : t.bc.buf = s.bc.buf ∧ t.bc.bufLen ≤ s.bc.bufLen := by
  rcases exec_bc_cases i s hi with
    ⟨_, _, _, hx⟩ | ⟨_, _, _, _, hx⟩ | ⟨_, _, hx⟩ | ⟨_, hx⟩ | ⟨b, hb, _⟩ | ⟨_, hx⟩
  · cases Host.Outcome.next.inj (h.symm.trans hx)
    exact ⟨rfl, le_rfl⟩
  · cases Host.Outcome.next.inj (h.symm.trans hx)
    exact ⟨rfl, le_rfl⟩
  · cases Host.Outcome.next.inj (h.symm.trans hx)
    exact ⟨rfl, le_rfl⟩
  · cases Host.Outcome.next.inj (h.symm.trans hx)
    exact ⟨rfl, Nat.zero_le _⟩
  · exact absurd hb (hp b)
  · cases Host.Outcome.next.inj (h.symm.trans hx)
    exact ⟨rfl, le_rfl⟩

/-- BC.PUSH stores the same byte at the same index in both. -/
theorem exec_bcPush_hidesUnreadBuf (b : Byte) : HidesUnreadBuf (exec (.bcPush b)) := by
  intro m s s' hm h
  by_cases hf : s.bc.bufLen = s.params.bcBufBytes
  · cases Host.Outcome.next.inj (h.symm.trans (exec_bcPush_of_full hf))
    exact ⟨m, exec_bcPush_of_full (s := withBuf m s) hf, hm.congr rfl le_rfl⟩
  · cases Host.Outcome.next.inj (h.symm.trans (exec_bcPush_of_room hf))
    refine ⟨m.write s.bc.bufLen b, exec_bcPush_of_room (s := withBuf m s) hf, fun a ha => ?_⟩
    rw [bufRead_of_write (t := respondOk _ _ _) (s := s) rfl, bufRead_of_write (s := withBuf m s) rfl]
    split
    · rfl
    · next hne => exact hm a (by have : a < s.bc.bufLen + 1 := ha; omega)

theorem exec_bc_hidesUnreadBuf {i : Instr} (hi : isBcCmd i = true) : HidesUnreadBuf (exec i) := by
  by_cases hpush : ∃ b, i = .bcPush b
  · obtain ⟨b, rfl⟩ := hpush
    exact exec_bcPush_hidesUnreadBuf b
  · intro m s s' hm h
    have hp : ∀ b, i ≠ .bcPush b := not_exists.1 hpush
    obtain ⟨hb, hl⟩ := exec_bc_keeps_buf hi hp h
    exact ⟨m, exec_bc_withBuf hi hp hm h, hm.congr hb hl⟩

/-! ### Other commands -/

theorem exec_crc_hidesUnreadBuf {i : Instr} (hi : isCrcCmd i = true) : HidesUnreadBuf (exec i) := by
  cases i with
  | crcInit => exact hidesUnreadBuf_next (fun _ _ => rfl) (fun _ => rfl) fun _ => rfl
  | crcByte b => exact hidesUnreadBuf_next (fun _ _ => rfl) (fun _ => rfl) fun _ => rfl
  | crcCheck =>
    intro m s s' hm h
    have hreg : (withBuf m s).crc.reg = s.crc.reg := rfl
    rcases exec_crcCheck s with ⟨hz, hx⟩ | ⟨hz, hx⟩
    all_goals
      cases Host.Outcome.next.inj (h.symm.trans hx)
      refine ⟨m, ?_, hm.congr rfl le_rfl⟩
      simp only [exec, execCrcCheck, hreg, hz, ↓reduceIte]
      rfl
  | sysReset | frmStart | frmAbort => cases hi
  | bcClear | bcPush | bcRdu | bcRdue | bcRdse | bcAlign | bcRem => cases hi
  | tspTei | tspRsv | tspPay | tspAf | tspAfpay | tspNosync => cases hi

/-- Every command hides the bytes. -/
theorem exec_cw32_hidesUnreadBuf {i : Instr} (hi : i.format = .cw32) : HidesUnreadBuf (exec i) := by
  rcases cw32_cases i hi with rfl | rfl | rfl | hc | hb
  · intro m s s' _ h
    cases exec_sysReset_inv h
    exact ⟨[], rfl, fun a _ => rfl⟩
  · intro m s s' hm h
    rcases exec_frmStart s with ⟨hf, hx⟩ | ⟨hf, hx⟩ <;> cases Host.Outcome.next.inj (h.symm.trans hx)
    · exact ⟨m, if_pos hf, hm.congr rfl le_rfl⟩
    · exact ⟨m, if_neg hf, hm.congr rfl le_rfl⟩
  · intro m s s' hm h
    rcases exec_frmAbort s with ⟨hf, hx⟩ | ⟨hf, hx⟩ <;> cases Host.Outcome.next.inj (h.symm.trans hx)
    · exact ⟨m, if_pos hf, hm.congr rfl le_rfl⟩
    · exact ⟨m, if_neg hf, hm.congr rfl le_rfl⟩
  · exact exec_crc_hidesUnreadBuf hc
  · exact exec_bc_hidesUnreadBuf hb

/-! ### Moves -/

theorem stay_actsBesideUnits : ActsBesideUnits fun s => .next s :=
  actsBesideUnits_next (g := id) (fun _ => rfl) fun _ _ _ _ => rfl

theorem sinkStep_actsBesideUnits (n : Nat) : ActsBesideUnits fun s => .next (sinkStep n s) :=
  actsBesideUnits_next (fun _ => rfl) fun _ _ _ _ => rfl

theorem sourceStep_actsBesideUnits (n : Nat) : ActsBesideUnits fun s => .next (sourceStep n s) := by
  refine actsBesideUnits_next (fun s => ?_) fun c b r s => ?_
  · unfold sourceStep
    split <;> rfl
  · unfold sourceStep
    rw [apply_ite (withUnits c b r)]
    rfl

/-- R340: whoever moves when everything runs freely acts beside the other units. -/
theorem freeRun_actsBesideUnits : ActsBesideUnits freeRun := by
  intro s u h
  have hp : ∀ c b r, (withUnits c b r s).ports = s.ports := fun _ _ _ => rfl
  have he : ∀ c b r, enabledStep (withUnits c b r s) = enabledStep s := fun _ _ _ => rfl
  unfold freeRun at h ⊢
  simp only [hp, he]
  by_cases hr : s.ports.recPort ≠ []
  · rw [if_pos hr] at h
    simp only [if_pos hr]
    exact sinkStep_actsBesideUnits _ s u h
  · rw [if_neg hr] at h
    simp only [if_neg hr]
    cases hk : enabledStep s <;> rw [hk] at h
    case idle | waiting => exact sourceStep_actsBesideUnits _ s u h
    all_goals exact framerStep_actsBesideUnits s u h

theorem writeSlot_withBuf (sl : Slot) (v : Word64) (m : Memory) (s : State) :
    writeSlot sl v (withBuf m s) = withBuf m (writeSlot sl v s) := by
  cases sl with
  | cfg => exact (apply_ite (withBuf m) (s.frm.fstate = .idle) { s with cfg := cfgMerge s.cfg v } s).symm
  | bcStatus =>
    exact (apply_ite (withBuf m) (v.getLsbD 0 = true) { s with bc.errSticky := false, bc.lastCause := .none } s).symm
  | _ => rfl

/-- R45: a write of BC_STATUS writes the sticky pair. -/
theorem writeSlot_keeps_buf (sl : Slot) (v : Word64) (s : State) :
    (writeSlot sl v s).bc.buf = s.bc.buf ∧ (writeSlot sl v s).bc.bufLen = s.bc.bufLen := by
  cases sl with
  | cfg => simp only [writeSlot, writeCfg_bc, and_self]
  | bcStatus =>
    simp only [writeSlot, writeBcStatus]
    split <;> exact ⟨rfl, rfl⟩
  | _ => exact ⟨rfl, rfl⟩

theorem runCommand_hidesUnreadBuf (w : Word32) : HidesUnreadBuf (runCommand w) := by
  unfold runCommand
  cases hd : decodeCmd w with
  | ok i => exact exec_cw32_hidesUnreadBuf (decodeCmd_format hd)
  | error e => exact hidesUnreadBuf_next (fun _ _ => rfl) (fun _ => rfl) fun _ => rfl

theorem hostWrite_hidesUnreadBuf (a : BitVec 12) (v : Word64) : HidesUnreadBuf (hostWrite a v) := by
  cases hs : slotAt a with
  | none =>
    rw [show hostWrite a v = fun s => .next s from funext (hostWrite_of_no_slot hs v)]
    exact stay_actsBesideUnits.hidesUnreadBuf
  | some sl =>
    by_cases hc : sl = .cmd
    · subst hc
      have ha := (slotAt_eq_some_iff a .cmd).1 hs
      rw [show hostWrite a v = runCommand (v.extractLsb' 0 32) from funext fun s => hostWrite_cmd s v ha]
      exact runCommand_hidesUnreadBuf _
    · rw [show hostWrite a v = fun s => .next (writeSlot sl v s) from funext (hostWrite_of_slotAt hs hc v)]
      exact hidesUnreadBuf_next (writeSlot_withBuf sl v) (fun s => (writeSlot_keeps_buf sl v s).1)
        fun s => (writeSlot_keeps_buf sl v s).2

/-- No register shows BUF. -/
theorem regRead_withBuf (m : Memory) (s : State) (a : BitVec 12) : regRead (withBuf m s) a = regRead s a := by
  unfold regRead
  cases slotAt a with
  | none => rfl
  | some sl => cases sl <;> rfl

theorem hostAccess_hidesUnreadBuf (a : Access) : HidesUnreadBuf (hostAccess a) := by
  cases a with
  | read r =>
    exact hidesUnreadBuf_next (g := fun s => { s with ports.rdata := regRead s r })
      (fun m s => by rw [regRead_withBuf]; rfl) (fun _ => rfl) fun _ => rfl
  | write r v => exact hostWrite_hidesUnreadBuf r v
  | reset =>
    intro m s s' _ h
    cases Host.Outcome.next.inj h
    exact ⟨[], rfl, fun a _ => rfl⟩

theorem takeTurn_hidesUnreadBuf (t : Turn) : HidesUnreadBuf (takeTurn t) := by
  cases t with
  | host a => exact hostAccess_hidesUnreadBuf a
  | framer => exact framerStep_actsBesideUnits.hidesUnreadBuf
  | source n => exact (sourceStep_actsBesideUnits n).hidesUnreadBuf
  | sink n => exact (sinkStep_actsBesideUnits n).hidesUnreadBuf
  | present bytes ends =>
    exact hidesUnreadBuf_next (g := presentStep bytes ends) (fun _ _ => rfl) (fun _ => rfl) fun _ => rfl

theorem step_hidesUnreadBuf : HidesUnreadBuf step := by
  intro m s s' hm h
  have ht : (withBuf m s).ports.turns = s.ports.turns := rfl
  unfold step at h ⊢
  rw [ht]
  cases hts : s.ports.turns <;> rw [hts] at h
  case nil => exact freeRun_actsBesideUnits.hidesUnreadBuf m s s' hm h
  case cons t ts => exact takeTurn_hidesUnreadBuf t m (dropTurn s) s' (hm.congr rfl le_rfl) h

/-- Settles O23: the bit cursor reads bits below 8 * BUF_LEN only, nothing else reads BUF, and what BC.PUSH adds to the
loaded bytes it has stored. -/
theorem cursorReadsOnlyLoadedBytes : Obligations.CursorReadsOnlyLoadedBytes := by
  unfold Obligations.CursorReadsOnlyLoadedBytes
  refine ⟨fun i s t m hi hp _ hm h => exec_bc_withBuf hi hp hm h, fun s t s' hst h => ?_⟩
  obtain ⟨m, rfl, hm⟩ := (sameButUnreadBuf_iff s t).1 hst
  obtain ⟨m', hstep, hm'⟩ := step_hidesUnreadBuf m s s' hm h
  exact ⟨_, hstep, (sameButUnreadBuf_iff s' _).2 ⟨m', rfl, hm'⟩⟩

end Sys2Proof.Machine

/-! PROOFS. The exceptions: that every move answers a next state, when a command answers BAD_STATE, and what an illegal
command word does. -/

namespace Sys2Proof.Machine

open Sys2Proof

/-! ## Every move answers -/

/-- R3, R22: a locked stride holds the lead and a whole core. -/
theorem lead_add_core_le_stride {s : State} (hs : StrideOk s) (hf : s.frm.fstate = .run) :
    4 * s.frm.lead.toNat + 188 ≤ s.frm.stride.toNat := by
  obtain ⟨hlead, -, -, hlocked, -⟩ := hs
  have hrow := hlocked (.inl hf)
  simp only [List.mem_cons, List.not_mem_nil, or_false] at hrow
  have hbit := s.frm.lead.toNat_le
  rcases hrow with h | h | h | h
  · have hl : s.frm.lead = false := by simpa [h] using hlead
    rw [h, hl]
    decide
  all_goals
    rw [h]
    simp only [BitVec.reduceToNat]
    omega

/-- R110, R180: in RUN a unit that has arrived holds a core. -/
theorem exists_coreAt {s : State} (hs : StrideOk s) (hf : s.frm.fstate = .run) (hu : unitReady s = true) :
    ∃ p, CoreAt s p := by
  have harrived := (unitReady_iff s).1 hu
  have hcore := lead_add_core_le_stride hs hf
  refine ⟨(s.ports.stream.drop (s.frm.pos.toNat + 4 * s.frm.lead.toNat)).take 188, harrived, hcore, ?_,
    fun i hi => ?_⟩
  · rw [List.length_take, List.length_drop]
    omega
  · rw [List.getElem?_take_of_lt hi, List.getElem?_drop]

/-- R120, R293: a command word, legal or not, is answered. -/
theorem runCommand_next (w : Word32) (s : State) : ∃ t, runCommand w s = .next t := by
  unfold runCommand
  cases hd : decodeCmd w with
  | ok i => exact exec_cw32_next i s (decodeCmd_format hd)
  | error e => exact ⟨_, rfl⟩

theorem hostWrite_next (a : BitVec 12) (v : Word64) (s : State) : ∃ t, hostWrite a v s = .next t := by
  cases hs : slotAt a with
  | none => exact ⟨_, hostWrite_of_no_slot hs v s⟩
  | some sl =>
    by_cases hcmd : sl = .cmd
    · rw [hcmd] at hs
      rw [hostWrite_cmd s v ((slotAt_eq_some_iff a .cmd).1 hs)]
      exact runCommand_next _ s
    · exact ⟨_, hostWrite_of_slotAt hs hcmd v s⟩

/-- R309: no access of the host stops the machine. -/
theorem hostAccess_next (a : Access) (s : State) : ∃ t, hostAccess a s = .next t := by
  cases a with
  | read r => exact ⟨_, rfl⟩
  | write r v => exact hostWrite_next r v s
  | reset => exact ⟨_, rfl⟩

/-- R309: the framer takes a packet step only where there is a core to run on. -/
theorem framerStep_next {s : State} (hs : StrideOk s) : ∃ t, framerStep s = .next t := by
  unfold framerStep
  cases he : enabledStep s with
  | packet =>
    obtain ⟨hf, -, -, hu⟩ := enabledStep_packet he
    obtain ⟨p, hp⟩ := exists_coreAt hs hf hu
    exact exec_form_next (decodeHeader_format _) hp
  | idle | waiting | probe | finish | abort => exact ⟨_, rfl⟩

theorem takeTurn_next (t : Turn) {s : State} (hs : StrideOk s) : ∃ s', takeTurn t s = .next s' := by
  cases t with
  | host a => exact hostAccess_next a s
  | framer => exact framerStep_next hs
  | source | sink | present => exact ⟨_, rfl⟩

theorem freeRun_next {s : State} (hs : StrideOk s) : ∃ s', freeRun s = .next s' := by
  unfold freeRun
  by_cases hp : s.ports.recPort ≠ []
  · exact ⟨_, if_pos hp⟩
  · rw [if_neg hp]
    cases enabledStep s with
    | idle | waiting => exact ⟨_, rfl⟩
    | probe | packet | finish | abort => exact framerStep_next hs

/-- Settles O37: whoever moves answers; taking the turn off the list leaves STRIDE, LEAD, TRAIL and FSTATE. -/
theorem noStreamAndNoCommandStopsTheMachine : Obligations.NoStreamAndNoCommandStopsTheMachine := by
  unfold Obligations.NoStreamAndNoCommandStopsTheMachine
  intro s hs
  have hdrop : StrideOk (dropTurn s) := hs
  unfold step
  cases s.ports.turns with
  | nil => exact freeRun_next hs
  | cons t ts => exact takeTurn_next t hdrop

/-! ## BAD_STATE -/

/-- R250, R292: a command of the bit cursor fails with one of the unit's four causes, or succeeds. -/
theorem exec_bc_causes {i : Instr} (s : State) (hi : isBcCmd i = true) :
    (∃ opc c, c ∈ [Cause.bcBounds, .bcWidth, .bcCodeTooLong, .bcFull] ∧ exec i s = .next (bcFail opc c s)) ∨
      ∃ opc v u, exec i s = .next (respondOk opc v u) := by
  have hcode : ∀ c, readCodeword s = .error c → c ∈ [Cause.bcBounds, .bcWidth, .bcCodeTooLong, .bcFull] := by
    intro c h
    rcases readCodeword_error h with rfl | rfl <;> decide
  cases i with
  | bcClear | bcAlign | bcRem => exact .inr ⟨_, _, _, rfl⟩
  | bcPush b =>
    by_cases hfull : s.bc.bufLen = s.params.bcBufBytes
    · exact .inl ⟨_, _, by decide, exec_bcPush_of_full hfull⟩
    · exact .inr ⟨_, _, _, exec_bcPush_of_room hfull⟩
  | bcRdu n =>
    by_cases hw : n.toNat < 1 ∨ 32 < n.toNat
    · exact .inl ⟨_, _, by decide, exec_bcRdu_of_width s hw⟩
    · obtain ⟨h1, h32⟩ : 1 ≤ n.toNat ∧ n.toNat ≤ 32 := by omega
      by_cases hb : nbits s < s.bc.bitPos + n.toNat
      · exact .inl ⟨_, _, by decide, exec_bcRdu_of_short h1 h32 hb⟩
      · exact .inr ⟨_, _, _, exec_bcRdu_of_fits h1 h32 (Nat.not_lt.1 hb)⟩
  | bcRdue =>
    cases hr : readCodeword s with
    | error c => exact .inl ⟨_, c, hcode c hr, exec_bcRdue_of_error hr⟩
    | ok w => exact .inr ⟨_, _, _, exec_bcRdue_of_ok hr⟩
  | bcRdse =>
    cases hr : readCodeword s with
    | error c => exact .inl ⟨_, c, hcode c hr, exec_bcRdse_of_error hr⟩
    | ok w => exact .inr ⟨_, _, _, exec_bcRdse_of_ok hr⟩
  | sysReset | frmStart | frmAbort | crcInit | crcByte | crcCheck => cases hi
  | tspTei | tspRsv | tspPay | tspAf | tspAfpay | tspNosync => cases hi

/-- R294: who answers BAD_STATE, and that nothing but the answer changes. -/
theorem exec_badState_inv {i : Instr} {s t : State} (hi : i.format = .cw32) (h : exec i s = .next t)
    (hc : t.resp.cause = .badState) :
    (i = .frmStart ∧ s.frm.fstate ≠ .idle ∨
      i = .frmAbort ∧ s.frm.fstate ≠ .probe ∧ s.frm.fstate ≠ .run) ∧
    ∃ opc, t = respondErr opc .badState s := by
  rcases cw32_cases i hi with rfl | rfl | rfl | hcrc | hbc
  · rw [exec_sysReset_inv h] at hc
    cases hc
  · rcases exec_frmStart s with ⟨-, hx⟩ | ⟨hf, hx⟩ <;> cases Host.Outcome.next.inj (h.symm.trans hx)
    · cases hc
    · exact ⟨.inl ⟨rfl, hf⟩, _, rfl⟩
  · rcases exec_frmAbort s with ⟨-, hx⟩ | ⟨hf, hx⟩ <;> cases Host.Outcome.next.inj (h.symm.trans hx)
    · cases hc
    · exact ⟨.inr ⟨rfl, not_or.1 hf⟩, _, rfl⟩
  · obtain ⟨opc, v, u, hx⟩ := exec_crc_cases i s hcrc
    cases Host.Outcome.next.inj (h.symm.trans hx)
    cases hc
  · rcases exec_bc_causes s hbc with ⟨opc, c, hmem, hx⟩ | ⟨opc, v, u, hx⟩ <;>
      cases Host.Outcome.next.inj (h.symm.trans hx)
    · have hbad : c = .badState := hc
      rw [hbad] at hmem
      exact absurd hmem (by decide)
    · cases hc

/-- Settles O5: no other command answers BAD_STATE, and FRM.START and FRM.ABORT in the wrong state do. -/
theorem badStateOnlyFromStartAndAbort : Obligations.BadStateOnlyFromStartAndAbort := by
  unfold Obligations.BadStateOnlyFromStartAndAbort
  intro i s t hi h
  refine ⟨⟨fun hc => (exec_badState_inv hi h hc).1, ?_⟩, fun hc => ?_⟩
  · rintro (⟨rfl, hf⟩ | ⟨rfl, hprobe, hrun⟩)
    · have hx := ((exec_frmStart s).resolve_left fun hidle => hf hidle.1).2
      cases Host.Outcome.next.inj (h.symm.trans hx)
      rfl
    · have hx := ((exec_frmAbort s).resolve_left fun hruns => hruns.1.elim hprobe hrun).2
      cases Host.Outcome.next.inj (h.symm.trans hx)
      rfl
  · obtain ⟨-, opc, rfl⟩ := exec_badState_inv hi h hc
    exact ⟨rfl, rfl, rfl⟩

/-! ## Illegal command words -/

/-- R39, R117: OPC of the word a write to CMD delivers. -/
theorem cwOpc_cmdWord (v : Word64) : cwOpc (v.extractLsb' 0 32) = v.extractLsb' 24 8 := by
  unfold cwOpc
  ext i
  simp

/-- R120, R293: an illegal word is answered ILLEGAL_CMD. -/
theorem runCommand_of_error {w : Word32} {e : Reject} (h : decodeCmd w = .error e) (s : State) :
    runCommand w s = .next (respondErr (cwOpc w) .illegalCmd s) := by
  simp only [runCommand, h]

/-- Settles O30: the write reaches CMD, and the word is answered with its own OPC. -/
theorem illegalCommandChangesOnlyResp : Obligations.IllegalCommandChangesOnlyResp := by
  unfold Obligations.IllegalCommandChangesOnlyResp
  intro s a v e ha hd
  refine ⟨respondErr (v.extractLsb' 24 8) .illegalCmd s, ?_, respIs_respond _ _ _ _, rfl⟩
  rw [hostAccess, hostWrite_cmd s v ha, runCommand_of_error hd, cwOpc_cmdWord]

end Sys2Proof.Machine
